-- ==== Sys2Proof/Word.lean ====
section
/-! DEFINITION. The block's words: one hard bit, and the bit vector every operation reads and writes (00 R9, 20 R62). -/

namespace Sys2Proof

/-- A bit vector (the source's "PDU"): its bits in stream order, position 0 first (00 R9). -/
abbrev Bits := List Bool

/-- An input byte (47 R382). -/
abbrev Byte := BitVec 8

/-- `v[a..b)`, the bits at positions `a` to `b − 1` (00 R9); positions past the end do not exist. -/
def Bits.slice (v : Bits) (a b : Nat) : Bits := (v.drop a).take (b - a)

end Sys2Proof
end

