-- ==== Sys2Proof/Syntax.lean ====
section
/-! DEFINITION. The operations of the block and their operands: one constructor of `Instr` per row of the opcode table (30 R116). -/

namespace Sys2Proof

/-- The class of a burst, in the spec's encoding order 0, 1, 2 (10 R36). -/
inductive BurstClass where
  | sb | ndb | ndbSf
  deriving DecidableEq, Repr, Inhabited

/-- The ten logical channels, in the spec's encoding order 0 to 9 (10 R30). -/
inductive LogicalChannel where
  | aach | blch | bnch | bsch | schF | schHd | stch | tchS | tch | unknown
  deriving DecidableEq, Repr

/-- The four signalling channels, the ones whose blocks carry MAC PDUs (30 R101). -/
inductive SigChannel where
  | schF | schHd | stch | bnch
  deriving DecidableEq, Repr

/-- A signalling channel as a logical channel. -/
def SigChannel.toLogical : SigChannel → LogicalChannel
  | .schF => .schF
  | .schHd => .schHd
  | .stch => .stch
  | .bnch => .bnch

/-- A row of the block map's FEC columns (30 R84): the 120-bit BSCH block, a 216-bit half-slot block, the 432-bit SCH_F block. -/
inductive BlockSize where
  | k120 | k216 | k432
  deriving DecidableEq, Repr

/-- The decoder path's symbol alphabet: a hard bit or the erasure `E` (41 R168). -/
inductive Sym where
  | zero | one | erased
  deriving DecidableEq, Repr

/-- The TDMA time `(tn, fn, mn)` (10 R24). -/
structure TetraTime where
  tn : Nat
  fn : Nat
  mn : Nat
  deriving DecidableEq, Repr

/-- The seven fields of the source's `MacAddress` (10 R32). -/
structure MacAddress where
  addressType : BitVec 3
  ssi : BitVec 24
  ussi : BitVec 24
  smi : BitVec 24
  eventLabel : BitVec 10
  usageMarker : BitVec 6
  encryptionMode : BitVec 2
  deriving DecidableEq, Repr

/-- What `IGNORE_RESERVED` reports: the type with its subtype, or the type with the channel (45 R281, R296). -/
inductive ReservedWhy where
  | subtype (type : BitVec 2) (sub : BitVec 2)
  | channel (type : BitVec 2) (ch : SigChannel)
  deriving DecidableEq, Repr

/-- A vector operand of a bit-vector operation: a value (a local), or one of the two vectors the block stores (40 R143). -/
inductive VecOperand where
  | value (v : Bits)
  | syncBuffer
  | fragBuffer
  deriving DecidableEq, Repr

/-- One operation of the block, or one selector row of its field encodings; one constructor per row of the opcode table. The don't-care bits of a row are its first operand. -/
inductive Instr where
  -- burst synchronizer (43)
  | rxSymbol (b : Bool)
  | syncMatch (w : Bits)
  | processBurst (w : Bits)
  -- bit vector (40)
  | bvSize (v : VecOperand)
  | bvGetValue (v : VecOperand) (pos n : Nat)
  | bvExtract (v : VecOperand) (pos n : Int)
  | bvAppend (u v : VecOperand)
  | bvFromOffset (v : VecOperand) (offset : Nat) (len : Option Int)
  | bvResize (v : VecOperand) (n : Nat)
  | hamming (a b : VecOperand)
  -- block codes (41)
  | descramble (x : Bits) (key : BitVec 32)
  | deinterleave (x : Bits) (size : BlockSize)
  | depuncture23 (x : Bits)
  | viterbiDecode (y : List Sym)
  | rmDecode (c : Bits)
  | crc16Check (b : Bits)
  -- cell and time (42)
  | timeInc
  | timeSet (tnCode : BitVec 2) (fn : BitVec 5) (mn : BitVec 6)
  | scrambleInit (mcc : BitVec 10) (mnc : BitVec 14) (cc : BitVec 6)
  -- lower MAC (44)
  | lmacBurst (w : Bits) (type : BurstClass)
  | lmacSb (w : Bits)
  | lmacNdb (w : Bits)
  | lmacNdbSf (w : Bits)
  | fecDecodeBlock (x : Bits) (key : BitVec 32) (size : BlockSize)
  | aachDecodeBlock (x : Bits) (key : BitVec 32)
  -- upper MAC (45)
  | umacDispatch (blk : Bits) (ch : LogicalChannel)
  | dissectAach (a : Bits)
  | dissectBsch (b : Bits)
  | dissectSysinfo (p : Bits) (ch : SigChannel)
  | decodeLength (li : BitVec 6)
  | dissectMacResource (p : Bits) (ch : SigChannel)
  | stripFillBits (p : Bits)
  | parseAddress (p : Bits) (pos : Nat) (addrType : BitVec 3)
  | parseChanAlloc (p : Bits) (pos : Nat)
  | dissectMacFrag (p : Bits) (ch : SigChannel)
  | dissectMacEnd (p : Bits) (ch : SigChannel)
  | dissectMacDBlck (p : Bits)
  | dissectAccessDefine (p : Bits) (ch : SigChannel)
  | dissociationLoop (blk : Bits) (ch : SigChannel)
  | emitTchS (x : Bits)
  | ignoreReserved (p : Bits) (ch : SigChannel) (why : ReservedWhy)
  -- defragmenter (46)
  | fragStart (a : MacAddress) (t : TetraTime)
  | fragAppend (v : Bits) (a : MacAddress)
  | fragGetSdu (a : MacAddress)
  | fragStop
  -- interfaces (47)
  | inputUnpack (byte : Byte)
  | emit (ch : LogicalChannel) (sdu : Bits)
  | stop
  | ioError
  | reset
  -- PDU-type rows (30 R101): the don't-care bits of the window, the rest of the working PDU from bit 4, the channel
  | macResource (lo : BitVec 2) (rest : Bits) (ch : SigChannel)
  | macFrag (lo : BitVec 1) (rest : Bits) (ch : SigChannel)
  | macEnd (lo : BitVec 1) (rest : Bits) (ch : SigChannel)
  | sysinfo (rest : Bits) (ch : SigChannel)
  | accessDefine (rest : Bits) (ch : SigChannel)
  | reserved10x (lo : BitVec 1) (rest : Bits) (ch : SigChannel)
  | macDBlck (lo : BitVec 2) (rest : Bits)
  | reserved11 (lo : BitVec 2) (rest : Bits) (ch : SigChannel)
  -- length-indication rows (30 R102): the don't-care bits of the code
  | liReserved0
  | liOctets1
  | liOctets2to3 (lo : BitVec 1)
  | liOctets4to7 (lo : BitVec 2)
  | liOctets8to15 (lo : BitVec 3)
  | liOctets16to17 (lo : BitVec 1)
  | liOctets18
  | liOctets19
  | liOctets20to23 (lo : BitVec 2)
  | liOctets24to31 (lo : BitVec 3)
  | liOctets32to47 (lo : BitVec 4)
  | liOctets48to55 (lo : BitVec 3)
  | liOctets56to57 (lo : BitVec 1)
  | liOctets58
  | liReserved59
  | liReserved60to61 (lo : BitVec 1)
  | liSecondHalfStolen
  | liStartFragmenting
  -- address-type rows (30 R103): the PDU and the position of the address fields
  | atNull (p : Bits)
  | atSsi (p : Bits) (pos : Nat)
  | atEventLabel (p : Bits) (pos : Nat)
  | atUssi (p : Bits) (pos : Nat)
  | atSmi (p : Bits) (pos : Nat)
  | atSsiEventLabel (p : Bits) (pos : Nat)
  | atSsiUsageMarker (p : Bits) (pos : Nat)
  | atSmiEventLabel (p : Bits) (pos : Nat)
  -- AACH-usage rows (30 R104): header, field1, and bits [8, 14), which no rule reads but the emission carries
  | aachFrame18 (header : BitVec 2) (field1 : BitVec 6) (tail : BitVec 6)
  | aachHeader00 (field1 : BitVec 6) (tail : BitVec 6)
  | aachUnallocated (header : BitVec 2) (tail : BitVec 6)
  | aachAssigned (header : BitVec 2) (tail : BitVec 6)
  | aachCommon (header : BitVec 2) (tail : BitVec 6)
  | aachReserved (header : BitVec 2) (tail : BitVec 6)
  | aachTraffic (header : BitVec 2) (field1 : BitVec 6) (tail : BitVec 6)
  -- burst-class rows (30 R100): the window before and after the training sequence
  | burstSb (head tail : Bits)
  | burstNdb (head tail : Bits)
  | burstNdbSf (head tail : Bits)
  deriving DecidableEq, Repr

end Sys2Proof
end

