-- ==== Sys2Proof/Machine/BitVector.lean ====
section
/-! DEFINITION. The bit-vector primitive as functions on values (40 R140 to R147): every field read, slice and concatenation of the block goes through one of these. -/

namespace Sys2Proof.Machine

/-- The unsigned MSB-first value of a bit vector (00 R10). -/
def bitsToNat (v : Bits) : Nat := v.foldl (fun r b => 2 * r + b.toNat) 0

/-- The `k` low bits of `n`, most significant first: the vector whose value is `n mod 2^k` (00 R10). -/
def natToBits : Nat → Nat → Bits
  | 0, _ => []
  | k + 1, n => n.testBit k :: natToBits k n

/-- A bit vector word in stream order, its most significant bit first (00 R10). -/
def bvToBits {k : Nat} (x : BitVec k) : Bits := natToBits k x.toNat

/-- `OutOfRange(pos, n, size)`, what an out-of-range field read raises (40 R141, 60 R404). -/
structure OutOfRange where
  pos : Nat
  n : Nat
  size : Nat
  deriving DecidableEq, Repr

/-- `BV_SIZE` (40 R140). -/
def vecSize (v : Bits) : Nat := v.length

/-- `BV_GET_VALUE`, for any width; the operation's own bound `n ≤ 64` is its caller's (40 R141, 20 R66). DEDUCED (log entry 30): a read of 0 bits past the end raises `OutOfRange`, as 40 R141 and vector V1.6 say, where 20 R66 says that it never does. -/
def getValue (v : Bits) (pos n : Nat) : Except OutOfRange Nat :=
  if pos + n > v.length then .error ⟨pos, n, v.length⟩
  else .ok (bitsToNat ((v.drop pos).take n))

/-- `BV_EXTRACT`: the requested range clamped to the bits that exist (40 R142). -/
def extract (v : Bits) (pos n : Int) : Bits :=
  let p := min (max pos 0) v.length
  let q := min (max (p + n) p) v.length
  Bits.slice v p.toNat q.toNat

/-- `BV_APPEND`'s value: the concatenation, `u` first (40 R143). -/
def append (u v : Bits) : Bits := u ++ v

/-- `BV_FROM_OFFSET`, with and without a length (40 R144). -/
def fromOffset (v : Bits) (offset : Nat) : Option Int → Bits
  | none => extract v offset (v.length - offset)
  | some len => extract v offset len

/-- `BV_RESIZE`: truncate, or pad with zeros (40 R145). -/
def resize (v : Bits) (n : Nat) : Bits :=
  if n ≤ v.length then v.take n else v ++ List.replicate (n - v.length) false

/-- `HAMMING`: the number of positions where two vectors of equal length differ (40 R146). -/
def hamming : Bits → Bits → Nat
  | a :: as, b :: bs => (if a ≠ b then 1 else 0) + hamming as bs
  | _, _ => 0

end Sys2Proof.Machine
end

