-- ==== Sys2Proof/Machine/Codes.lean ====
section
/-! DEFINITION. The block codes as functions on values (41 R160 to R168): scrambler, deinterleaver, depuncturer, mother code, maximum-likelihood Viterbi decoder, Reed-Muller encoder, CRC. Parameters are arguments. -/

namespace Sys2Proof.Machine

/-- The depuncturer's pattern `P(1), P(2), P(3)`, each 0-based in its group of eight mother symbols (41 R162). -/
structure Puncture where
  p1 : Fin 8
  p2 : Fin 8
  p3 : Fin 8
  deriving DecidableEq, Repr

/-- The deinterleaver parameter `K` (41 R161). -/
def blockK : BlockSize → Nat
  | .k120 => 120
  | .k216 => 216
  | .k432 => 432

/-- The deinterleaver parameter `a` (41 R161). -/
def blockA : BlockSize → Nat
  | .k120 => 11
  | .k216 => 101
  | .k432 => 103

/-- The CRC length `n_crc` of the block map (30 R84). -/
def blockCrc : BlockSize → Nat
  | .k120 => 76
  | .k216 => 140
  | .k432 => 284

/-- The kept length `n_keep` of the block map (30 R84). -/
def blockKeep : BlockSize → Nat
  | .k120 => 60
  | .k216 => 124
  | .k432 => 268

/-- The three punctured block lengths (41 R162). -/
def isBlockLength (n : Nat) : Bool := n == 120 || n == 216 || n == 432

/-- The three lengths of a decoder input, `4N` for `N` = 80, 144, 288 (41 R164). -/
def isSymbolLength (n : Nat) : Bool := n == 320 || n == 576 || n == 1152

/-- The feedback bit of the default scrambling LFSR: the taps of 41 R160 as register bits `32 − t`. -/
def lfsrFeedback (r : BitVec 32) : Bool :=
  [0, 6, 9, 10, 16, 20, 21, 22, 24, 25, 27, 28, 30, 31].foldl (fun b i => Bool.xor b (r.getLsbD i)) false

/-- One step of the LFSR: shift right, the feedback bit in at bit 31 (41 R160). -/
def lfsrNext (r : BitVec 32) : BitVec 32 := r >>> 1 ||| (BitVec.ofBool (lfsrFeedback r)).setWidth 32 <<< 31

/-- The default `SCRAMBLE_SEQ(S, n)` (41 R160). -/
def lfsrSeq : Nat → BitVec 32 → Bits
  | 0, _ => []
  | n + 1, r => lfsrFeedback r :: lfsrSeq n (lfsrNext r)

/-- `DESCRAMBLE`, given the scrambling sequence (41 R160). -/
def xorBits (x s : Bits) : Bits := List.zipWith Bool.xor x s

/-- `DEINTERLEAVE`: `y[j] = x[(a · (j + 1)) mod K]` (41 R161). -/
def deinterleave (size : BlockSize) (x : Bits) : Bits :=
  (List.range (blockK size)).map fun j => x.getD (blockA size * (j + 1) % blockK size) false

/-- A hard bit as a decoder symbol (41 R168). -/
def symOfBit (b : Bool) : Sym := if b then .one else .zero

/-- One group of eight mother symbols: three received bits at the puncturing positions, erasures elsewhere, stored in the order of the pseudocode (41 R162). -/
def depunctureGroup (P : Puncture) (a b c : Bool) : List Sym :=
  (((List.replicate 8 Sym.erased).set P.p1 (symOfBit a)).set P.p2 (symOfBit b)).set P.p3 (symOfBit c)

/-- `DEPUNCTURE_2_3` (41 R162). -/
def depuncture (P : Puncture) : Bits → List Sym
  | a :: b :: c :: rest => depunctureGroup P a b c ++ depuncture P rest
  | _ => []

/-- The encoder's memory: the four input bits before the current one, the newest first (41 R163). -/
structure ConvState where
  d1 : Bool
  d2 : Bool
  d3 : Bool
  d4 : Bool
  deriving DecidableEq, Repr

/-- The all-zero state (41 R163). -/
def ConvState.zero : ConvState := ⟨false, false, false, false⟩

/-- The state after one more input bit. -/
def convNext (s : ConvState) (u : Bool) : ConvState := ⟨u, s.d1, s.d2, s.d3⟩

/-- The four mother symbols of one input bit: `G1 = 1+D+D⁴`, `G2 = 1+D²+D³+D⁴`, `G3 = 1+D+D²+D⁴`, `G4 = 1+D+D³+D⁴` (41 R163). -/
def convOut (s : ConvState) (u : Bool) : Bits :=
  [u ^^ s.d1 ^^ s.d4, u ^^ s.d2 ^^ s.d3 ^^ s.d4, u ^^ s.d1 ^^ s.d2 ^^ s.d4, u ^^ s.d1 ^^ s.d3 ^^ s.d4]

/-- The mother encoder from a given state. -/
def convEncodeFrom (s : ConvState) : Bits → Bits
  | [] => []
  | u :: us => convOut s u ++ convEncodeFrom (convNext s u) us

/-- `CONV_ENCODE` (41 R163). -/
def convEncode (u : Bits) : Bits := convEncodeFrom .zero u

/-- `PUNCTURE`: the mother symbols at the positions of 41 R162, in order. -/
def puncture (P : Puncture) : Bits → Bits
  | a :: b :: c :: d :: e :: f :: g :: h :: rest =>
    [[a, b, c, d, e, f, g, h].getD P.p1 false, [a, b, c, d, e, f, g, h].getD P.p2 false,
      [a, b, c, d, e, f, g, h].getD P.p3 false] ++ puncture P rest
  | _ => []

/-- The symbol vector the decoder sees for an error-free transmission of `u` (41 R164(a)). -/
def received (P : Puncture) (u : Bits) : List Sym := depuncture P (puncture P (convEncode u))

/-- The number of positions that are not erased and differ from the mother code (41 R164). -/
def symDistance : List Sym → Bits → Nat
  | y :: ys, v :: vs => (if y = .erased ∨ y = symOfBit v then 0 else 1) + symDistance ys vs
  | _, _ => 0

/-- A survivor of the trellis: its distance so far and its input bits, the newest first. -/
structure Survivor where
  metric : Nat
  path : Bits
  deriving DecidableEq, Repr

/-- The better of two survivors; where both are as good, `tie` chooses (93 U1). -/
def better (tie : Bool) (a b : Survivor) : Survivor where
  metric := min a.metric b.metric
  path := if a.metric < b.metric then a.path else if b.metric < a.metric then b.path else if tie then b.path else a.path

/-- The survivor `a` of state `p` extended by the input bit `u` over the four symbols `ys`. -/
def extend (ys : List Sym) (p : ConvState) (u : Bool) (a : Survivor) : Survivor :=
  ⟨a.metric + symDistance ys (convOut p u), u :: a.path⟩

/-- The two states that lead to `s`, by the bit that falls out of the memory. -/
def convPrev (s : ConvState) (out : Bool) : ConvState := ⟨s.d2, s.d3, s.d4, out⟩

/-- The sixteen encoder states. -/
def allStates : List ConvState :=
  [false, true].flatMap fun a => [false, true].flatMap fun b => [false, true].flatMap fun c =>
    [false, true].map fun d => ⟨a, b, c, d⟩

/-- The survivor a trellis table holds for a state. -/
def survivorAt (t : List (ConvState × Survivor)) (s : ConvState) : Survivor := (t.lookup s).getD ⟨0, []⟩

/-- The table before the first symbol: state 0 at distance 0; every other state at a distance no path from state 0 reaches (41 R164, "starts in state 0"). -/
def trellisStart (bound : Nat) : List (ConvState × Survivor) :=
  allStates.map fun s => (s, ⟨if s = .zero then 0 else bound, []⟩)

/-- One trellis section over four symbols; `tie s` settles state `s`. -/
def trellisStep (tie : ConvState → Bool) (ys : List Sym) (t : List (ConvState × Survivor)) : List (ConvState × Survivor) :=
  allStates.map fun s =>
    (s, better (tie s)
      (extend ys (convPrev s false) s.d1 (survivorAt t (convPrev s false)))
      (extend ys (convPrev s true) s.d1 (survivorAt t (convPrev s true))))

/-- The trellis over the symbols from section `k` on, four symbols a section. -/
def trellisRun (tie : Nat → ConvState → Bool) : Nat → List Sym → List (ConvState × Survivor) → List (ConvState × Survivor)
  | k, a :: b :: c :: d :: ys, t => trellisRun tie (k + 1) ys (trellisStep (tie k) [a, b, c, d] t)
  | _, _, t => t

/-- The best survivor over all end states, "may end in any state" (41 R164). -/
def bestSurvivor (tie : ConvState → Bool) (t : List (ConvState × Survivor)) : Survivor :=
  (allStates.drop 1).foldl (fun a s => better (tie s) a (survivorAt t s)) (survivorAt t .zero)

/-- The default `VITERBI_DECODE`, the maximum-likelihood decoder: an input whose mother code differs from `y` in the fewest positions that are not erased; `tie` and `endTie` choose among equals (41 R164, 93 U1). -/
def viterbiMl (tie : Nat → ConvState → Bool) (endTie : ConvState → Bool) (y : List Sym) : Bits :=
  (bestSurvivor endTie (trellisRun tie 0 y (trellisStart (y.length + 1)))).path.reverse

/-- `RM_ENCODE(m) = m · RM_GEN` over GF(2); row `i` of the matrix belongs to the `i`-th information bit in stream order (41 R165). -/
def rmEncode (gen : Fin 14 → BitVec 30) (m : BitVec 14) : BitVec 30 :=
  (List.finRange 14).foldl (fun acc i => acc ^^^ (if m.getMsbD i.val then gen i else 0)) 0

/-- One bit through the CRC register (41 R167). -/
def crcBit (r : BitVec 16) (x : Bool) : BitVec 16 :=
  if r.msb ^^ x then (r <<< 1) ^^^ 0x1021#16 else r <<< 1

/-- `CRC16(m)` with the final XOR (41 R167). -/
def crc16 (xorout : BitVec 16) (m : Bits) : BitVec 16 := m.foldl crcBit 0xFFFF#16 ^^^ xorout

/-- `CRC16_CHECK(b)`: the trailing 16 bits are the transmitted CRC, read MSB-first (41 R167). -/
def crc16Check (xorout : BitVec 16) (b : Bits) : Bool :=
  (crc16 xorout (b.take (b.length - 16))).toNat == bitsToNat (b.drop (b.length - 16))

/-- The default `SCRAMBLE_INIT` (42 R205). -/
def extendedColourCode (mcc : BitVec 10) (mnc : BitVec 14) (cc : BitVec 6) : BitVec 32 :=
  mcc.setWidth 32 <<< 22 ||| mnc.setWidth 32 <<< 8 ||| cc.setWidth 32 <<< 2 ||| 3#32

end Sys2Proof.Machine
end

