-- ==== Sys2Proof/Config.lean ====
section
/-! DEFINITION. What an implementation fixes: the parameters of 00 R7 as plain data (a field of State), and the free values, constants without a body that no proof can look into. -/

namespace Sys2Proof

open Machine

/-- Which implementation of a function-valued parameter the machine has: the spec's default, or another one, which is a constant without a body (00 R7, 92 D52). -/
inductive Implementation where
  | default | other
  deriving DecidableEq, Repr

/-- The parameters of 00 R7 that a model takes as arguments; fixed when the machine is built, written by no operation (70 R442). -/
structure Params where
  tsN1 : BitVec 22
  tsN2 : BitVec 22
  tsN3Begin : BitVec 12
  tsN3End : BitVec 10
  tsSync : BitVec 38
  scrambleInit : Implementation
  scrambleSeq : Implementation
  punct : Puncture
  viterbi : Implementation
  crcXorout : BitVec 16
  fragCap : Nat
  counterWidth : Nat
  syncDecOnPartial : Bool
  deriving DecidableEq, Repr

/-- The spec's default of every parameter (43 R221, 41 R160 to R167, 42 R205, 46 R360, 10 R21, 43 R224). -/
def Params.default : Params where
  tsN1 := 0b1101000011101001110100#22
  tsN2 := 0b0111101001000011011110#22
  tsN3Begin := 0b000110101101#12
  tsN3End := 0b1011011100#10
  tsSync := 0b11000001100111001110100111000001100111#38
  scrambleInit := .default
  scrambleSeq := .default
  punct := ⟨0, 1, 4⟩
  viterbi := .default
  crcXorout := 0x0000#16
  fragCap := 4424
  counterWidth := 16
  syncDecOnPartial := true

/-- A counter of this width holds the largest value the block writes, 25500 (10 R21). -/
def Params.wf (p : Params) : Bool := 25500 < 2 ^ p.counterWidth

namespace Config

/-- DESIGN CHOICE (log entry 8): the class `Burst.type` holds at reset, which the spec leaves unspecified (93 U3). -/
opaque burstTypeAtReset : BurstClass

/-- `SCRAMBLE_INIT` where it is not the default (42 R205). -/
opaque scrambleInitOther : BitVec 10 → BitVec 14 → BitVec 6 → BitVec 32

/-- `SCRAMBLE_SEQ` where it is not the default: output bit `i` of the sequence seeded from `S` (41 R160). -/
opaque scrambleSeqOther : BitVec 32 → Nat → Bool

/-- Which of two equally good survivors the default Viterbi decoder keeps, by the symbol vector, the trellis section and the state (93 U1). -/
opaque viterbiTie : List Sym → Nat → ConvState → Bool

/-- Which of two equally good end states the default Viterbi decoder takes (93 U1). -/
opaque viterbiEndTie : List Sym → ConvState → Bool

end Config

/-- Under the pattern `P`, no other input of the same length is received as `u` is. -/
def Recoverable (P : Puncture) (u : Bits) : Prop :=
  ∀ u', u'.length = u.length → received P u' = received P u → u' = u

/-- A decoder that keeps the contract of 41 R164: `N` bits from `4N` symbols, and the encoder's input back from what an error-free transmission delivers, wherever the puncturing pattern leaves the input recoverable. -/
structure ViterbiCodec where
  decode : Puncture → List Sym → Bits
  length_eq : ∀ P y, (decode P y).length = y.length / 4
  correct : ∀ P u, u.length % 2 = 0 → Recoverable P u → decode P (received P u) = u

/-- A Reed-Muller (30,14) code with a decoder that keeps the contract of 41 R166: the matrix `RM_GEN`, and a decoder that gives back the message of every code word. -/
structure RmCode where
  gen : Fin 14 → BitVec 30
  decode : BitVec 30 → BitVec 14
  correct : ∀ m, decode (rmEncode gen m) = m

/-- The bit vectors of a length, only to show that a decoder with the contract exists. -/
def allBits : Nat → List Bits
  | 0 => [[]]
  | n + 1 => (allBits n).flatMap fun v => [false :: v, true :: v]

theorem mem_allBits : ∀ u : Bits, u ∈ allBits u.length
  | [] => by simp [allBits]
  | b :: u => by
    have := mem_allBits u
    cases b <;> simp [allBits, this]

theorem length_of_mem_allBits : ∀ {n : Nat} {u : Bits}, u ∈ allBits n → u.length = n
  | 0, u, h => by simp_all [allBits]
  | n + 1, u, h => by
    simp only [allBits, List.mem_flatMap] at h
    obtain ⟨v, hv, hu⟩ := h
    have := length_of_mem_allBits hv
    simp only [List.mem_cons, List.not_mem_nil, or_false] at hu
    rcases hu with rfl | rfl <;> simp [this]

theorem convEncodeFrom_length (s : ConvState) (u : Bits) : (convEncodeFrom s u).length = 4 * u.length := by
  induction u generalizing s with
  | nil => rfl
  | cons b u ih => simp [convEncodeFrom, convOut, ih]; omega

/-- Puncturing and depuncturing keep a length that is a multiple of eight. -/
theorem depuncture_puncture_length (P : Puncture) : ∀ (k : Nat) (v : Bits), v.length = 8 * k →
    (depuncture P (puncture P v)).length = v.length
  | 0, v, h => by
    have : v = [] := List.length_eq_zero_iff.mp (by omega)
    subst this; rfl
  | k + 1, v, h => by
    match v, h with
    | a :: b :: c :: d :: e :: f :: g :: i :: rest, h =>
      have := depuncture_puncture_length P k rest (by simp at h; omega)
      simp [puncture, depuncture, depunctureGroup, this]; omega

theorem received_length (P : Puncture) (u : Bits) (h : u.length % 2 = 0) : (received P u).length = 4 * u.length := by
  rw [received, depuncture_puncture_length P (u.length / 2) _ (by rw [convEncode, convEncodeFrom_length]; omega),
    convEncode, convEncodeFrom_length]

/-- A decoder with the contract exists: search all inputs. -/
def ViterbiCodec.search : ViterbiCodec where
  decode P y := ((allBits (y.length / 4)).find? fun u => received P u = y).getD (List.replicate (y.length / 4) false)
  length_eq P y := by
    cases h : (allBits (y.length / 4)).find? fun u => received P u = y with
    | none => simp
    | some u => exact length_of_mem_allBits (List.mem_of_find?_eq_some h)
  correct P u hu hr := by
    have hl : (received P u).length / 4 = u.length := by rw [received_length P u hu]; omega
    rw [hl]
    cases h : (allBits u.length).find? fun v => received P v = received P u with
    | none =>
      have := List.find?_eq_none.mp h u (mem_allBits u)
      simp at this
    | some v =>
      have hv := List.find?_some h
      exact hr v (length_of_mem_allBits (List.mem_of_find?_eq_some h)) (by simpa using hv)

theorem getLsbD_ite_zero (c : Bool) (x : BitVec 30) (k : Nat) :
    (if c then x else 0).getLsbD k = (c && x.getLsbD k) := by
  cases c <;> simp

/-- A Reed-Muller code with the contract exists: repeat the message in the first fourteen bits. Nothing rests on this one: it only shows that the type has a member. -/
def RmCode.systematic : RmCode where
  gen i := BitVec.twoPow 30 (29 - i.val)
  decode c := c.extractLsb' 16 14
  correct m := by
    have hf : List.finRange 14 = [0, 1, 2, 3, 4, 5, 6, 7, 8, 9, 10, 11, 12, 13] := by decide
    simp only [rmEncode, hf, List.foldl_cons, List.foldl_nil]
    ext i hi
    simp only [BitVec.getElem_extractLsb', BitVec.getLsbD_xor, getLsbD_ite_zero, BitVec.getLsbD_twoPow, BitVec.getMsbD]
    interval_cases i <;> simp

namespace Config

/-- `VITERBI_DECODE` where it is not the default: any decoder with the contract (41 R164). -/
opaque viterbiOtherOf [Inhabited ViterbiCodec] : ViterbiCodec

/-- `RM_GEN` and `RM_DECODE`: any code and decoder with the contract (41 R165, R166; 93 U2). -/
opaque rmCodeOf [Inhabited RmCode] : RmCode

/-- `VITERBI_DECODE` where it is not the default. -/
def viterbiOther : ViterbiCodec := @viterbiOtherOf ⟨ViterbiCodec.search⟩

/-- The machine's Reed-Muller code. -/
def rmCode : RmCode := @rmCodeOf ⟨RmCode.systematic⟩

end Config

end Sys2Proof
end

