-- ==== Sys2Proof/WellFormed.lean ====
section
/-! DEFINITION. Which operations are well-formed: the operands the port can carry and that lie in the operation's domain (93 U5; log entries 2, 16). -/

namespace Sys2Proof

open Machine

/-- A number, or the length of a vector, that a 16-bit field of the port holds. -/
def natOk (n : Nat) : Bool := n < 65536

/-- A vector the port can carry. -/
def vecOk (v : Bits) : Bool := natOk v.length

/-- An integer that a 16-bit two's complement field holds. -/
def intOk (n : Int) : Bool := -32768 ≤ n && n < 32768

/-- A burst window (00 R6, `BURST_LEN`). -/
def windowOk (w : Bits) : Bool := w.length == 510

/-- A vector operand the port can carry. -/
def VecOperand.wf : VecOperand → Bool
  | .value v => vecOk v
  | .syncBuffer => true
  | .fragBuffer => true

/-- Two vector operands of `HAMMING`: of equal length where both are values (40 R146). -/
def hammingOk : VecOperand → VecOperand → Bool
  | .value a, .value b => a.length == b.length
  | _, _ => true

/-- A time in the ranges of 10 R24. -/
def TetraTime.wf (t : TetraTime) : Bool :=
  1 ≤ t.tn && t.tn ≤ 4 && 1 ≤ t.fn && t.fn ≤ 18 && 1 ≤ t.mn && t.mn ≤ 60

/-- The well-formed operations. -/
def Instr.wf : Instr → Bool
  | .rxSymbol _ => true
  | .syncMatch w => windowOk w
  | .processBurst w => windowOk w
  | .bvSize v => v.wf
  | .bvGetValue v pos n => v.wf && natOk pos && n ≤ 64
  | .bvExtract v pos n => v.wf && intOk pos && intOk n
  | .bvAppend u v => u.wf && v.wf
  | .bvFromOffset v offset len => v.wf && natOk offset && len.all intOk
  | .bvResize v n => v.wf && natOk n
  | .hamming a b => a.wf && b.wf && hammingOk a b
  | .descramble x _ => vecOk x
  | .deinterleave x size => x.length == blockK size
  | .depuncture23 x => isBlockLength x.length
  | .viterbiDecode y => isSymbolLength y.length
  | .rmDecode c => c.length == 30
  | .crc16Check b => 16 ≤ b.length && natOk (b.length - 16)
  | .timeInc => true
  | .timeSet _ _ _ => true
  | .scrambleInit _ _ _ => true
  | .lmacBurst w _ => windowOk w
  | .lmacSb w => windowOk w
  | .lmacNdb w => windowOk w
  | .lmacNdbSf w => windowOk w
  | .fecDecodeBlock x _ size => x.length == blockK size
  | .aachDecodeBlock x _ => x.length == 30
  | .umacDispatch blk _ => vecOk blk
  | .dissectAach a => vecOk a
  | .dissectBsch b => vecOk b
  | .dissectSysinfo p _ => vecOk p
  | .decodeLength _ => true
  | .dissectMacResource p _ => vecOk p
  | .stripFillBits p => vecOk p
  | .parseAddress p pos addrType => vecOk p && natOk pos && addrType != 0
  | .parseChanAlloc p pos => vecOk p && natOk pos
  | .dissectMacFrag p _ => vecOk p
  | .dissectMacEnd p _ => vecOk p
  | .dissectMacDBlck p => vecOk p
  | .dissectAccessDefine p _ => vecOk p
  | .dissociationLoop blk _ => vecOk blk
  | .emitTchS x => vecOk x
  | .ignoreReserved p _ _ => vecOk p
  | .fragStart _ t => t.wf
  | .fragAppend v _ => vecOk v
  | .fragGetSdu _ => true
  | .fragStop => true
  | .inputUnpack _ => true
  | .emit _ sdu => vecOk sdu
  | .stop => true
  | .ioError => true
  | .reset => true
  | .macResource _ rest _ => vecOk rest
  | .macFrag _ rest _ => vecOk rest
  | .macEnd _ rest _ => vecOk rest
  | .sysinfo rest _ => vecOk rest
  | .accessDefine rest _ => vecOk rest
  | .reserved10x _ rest _ => vecOk rest
  | .macDBlck _ rest => vecOk rest
  | .reserved11 _ rest ch => vecOk rest && ch != .schF
  | .liReserved0 => true
  | .liOctets1 => true
  | .liOctets2to3 _ => true
  | .liOctets4to7 _ => true
  | .liOctets8to15 _ => true
  | .liOctets16to17 _ => true
  | .liOctets18 => true
  | .liOctets19 => true
  | .liOctets20to23 _ => true
  | .liOctets24to31 _ => true
  | .liOctets32to47 _ => true
  | .liOctets48to55 _ => true
  | .liOctets56to57 _ => true
  | .liOctets58 => true
  | .liReserved59 => true
  | .liReserved60to61 _ => true
  | .liSecondHalfStolen => true
  | .liStartFragmenting => true
  | .atNull p => vecOk p
  | .atSsi p pos => vecOk p && natOk pos
  | .atEventLabel p pos => vecOk p && natOk pos
  | .atUssi p pos => vecOk p && natOk pos
  | .atSmi p pos => vecOk p && natOk pos
  | .atSsiEventLabel p pos => vecOk p && natOk pos
  | .atSsiUsageMarker p pos => vecOk p && natOk pos
  | .atSmiEventLabel p pos => vecOk p && natOk pos
  | .aachFrame18 _ _ _ => true
  | .aachHeader00 _ _ => true
  | .aachUnallocated header _ => header != 0
  | .aachAssigned header _ => header != 0
  | .aachCommon header _ => header != 0
  | .aachReserved header _ => header != 0
  | .aachTraffic header field1 _ => header != 0 && 4 ≤ field1.toNat
  | .burstSb head tail => head.length == 214 && tail.length == 258
  | .burstNdb head tail => head.length == 244 && tail.length == 244
  | .burstNdbSf head tail => head.length == 244 && tail.length == 244

end Sys2Proof
end

