-- ==== Sys2Proof/Decode.lean ====
section
/-! DEFINITION. The words of the operation port, read and written: the decoder, total on any bits and rejecting by name, and then the encoder. A word is a format tag, the opcode-table word of the row (30 R116), and the operands; the layout is the model's own (log entry 2). -/

namespace Sys2Proof

open Machine

/-- Why a word of the operation port is no operation. -/
inductive DecodeError where
  /-- the word ends before the operation does -/
  | tooShort
  /-- the format tag 7 names no format of the opcode table -/
  | noSuchFormat
  /-- no row of this format matches the word -/
  | noSuchRow
  /-- an operand field holds a code that stands for no value, or operands that lie outside the operation's domain -/
  | badOperand
  /-- bits other than zero padding follow the operation -/
  | trailingBits
  deriving DecidableEq, Repr

/-! ### Readers -/

/-- A reader: what it reads, and the bits after it. -/
abbrev Get (α : Type) := Bits → Except DecodeError (α × Bits)

/-- Read nothing. -/
def Get.value {α : Type} (a : α) : Get α := fun v => .ok (a, v)

/-- Reject. -/
def Get.fail {α : Type} (e : DecodeError) : Get α := fun _ => .error e

/-- One reader after another. -/
def Get.bind {α β : Type} (g : Get α) (f : α → Get β) : Get β := fun v =>
  match g v with
  | .error e => .error e
  | .ok (a, rest) => f a rest

/-- A reader with its value changed. -/
def Get.map {α β : Type} (f : α → β) (g : Get α) : Get β := g.bind fun a => .value (f a)

/-- A reader with its value changed, or rejected. -/
def Get.choose {α β : Type} (f : α → Option β) (g : Get α) : Get β :=
  g.bind fun a => match f a with
    | some b => .value b
    | none => .fail .badOperand

/-- Exactly `n` bits. -/
def getBits (n : Nat) : Get Bits := fun v =>
  if v.length < n then .error .tooShort else .ok (v.take n, v.drop n)

/-- A field of `k` bits, most significant first (00 R10). -/
def getBv (k : Nat) : Get (BitVec k) := (getBits k).map fun v => BitVec.ofNat k (bitsToNat v)

/-- A 16-bit number. -/
def getNat : Get Nat := (getBv 16).map BitVec.toNat

/-- A 16-bit two's complement number. -/
def getInt : Get Int := (getBv 16).map BitVec.toInt

/-- A vector: its length in 16 bits, then its bits. -/
def getVec : Get Bits := getNat.bind getBits

/-- One bit. -/
def getBool : Get Bool := (getBv 1).map fun b => b == 1

/-- A burst window. -/
def getWindow : Get Bits := getBits 510

def symOfCode : BitVec 2 → Option Sym
  | 0b00#2 => some .zero
  | 0b01#2 => some .one
  | 0b10#2 => some .erased
  | _ => none

def blockSizeOfCode : BitVec 2 → Option BlockSize
  | 0b00#2 => some .k120
  | 0b01#2 => some .k216
  | 0b10#2 => some .k432
  | _ => none

/-- The classes by the spec's encoding (10 R36). -/
def burstClassOfCode : BitVec 2 → Option BurstClass
  | 0b00#2 => some .sb
  | 0b01#2 => some .ndb
  | 0b10#2 => some .ndbSf
  | _ => none

def sigChannelOfCode : BitVec 2 → SigChannel
  | 0b00#2 => .schF
  | 0b01#2 => .schHd
  | 0b10#2 => .stch
  | _ => .bnch

/-- The channels by the spec's encoding (10 R30). -/
def channelOfCode : BitVec 4 → Option LogicalChannel
  | 0#4 => some .aach
  | 1#4 => some .blch
  | 2#4 => some .bnch
  | 3#4 => some .bsch
  | 4#4 => some .schF
  | 5#4 => some .schHd
  | 6#4 => some .stch
  | 7#4 => some .tchS
  | 8#4 => some .tch
  | 9#4 => some .unknown
  | _ => none

def getSize : Get BlockSize := (getBv 2).choose blockSizeOfCode
def getClass : Get BurstClass := (getBv 2).choose burstClassOfCode
def getSig : Get SigChannel := (getBv 2).map sigChannelOfCode
def getChannel : Get LogicalChannel := (getBv 4).choose channelOfCode

/-- `n` decoder symbols of two bits each. -/
def getSyms : Nat → Get (List Sym)
  | 0 => .value []
  | n + 1 => ((getBv 2).choose symOfCode).bind fun y => (getSyms n).map fun ys => y :: ys

/-- A vector operand: a 2-bit form, and a vector where it is a value. -/
def getOperand : Get VecOperand := (getBv 2).bind fun t =>
  match t with
  | 0b00#2 => getVec.map .value
  | 0b01#2 => .value .syncBuffer
  | 0b10#2 => .value .fragBuffer
  | _ => .fail .badOperand

/-- The seven fields of an address (10 R32). -/
def getAddress : Get MacAddress :=
  (getBv 3).bind fun addrType => (getBv 24).bind fun ssi => (getBv 24).bind fun ussi => (getBv 24).bind fun smi =>
  (getBv 10).bind fun eventLabel => (getBv 6).bind fun usageMarker => (getBv 2).map fun encryptionMode =>
    ⟨addrType, ssi, ussi, smi, eventLabel, usageMarker, encryptionMode⟩

/-- A time: each component less one. -/
def getTime : Get TetraTime :=
  (getBv 2).bind fun tn => (getBv 5).bind fun fn => (getBv 6).map fun mn =>
    ⟨tn.toNat + 1, fn.toNat + 1, mn.toNat + 1⟩

/-- An optional length: a bit that says whether it is there. -/
def getOptInt : Get (Option Int) := getBool.bind fun b => if b then getInt.map some else .value none

/-- The `why` operand of `IGNORE_RESERVED` (45 R296). -/
def getWhy : Get ReservedWhy := getBool.bind fun b =>
  if b then (getBv 2).bind fun t => getSig.map fun ch => .channel t ch
  else (getBv 2).bind fun t => (getBv 2).map fun sub => .subtype t sub

/-! ### The rows -/

/-- The operations by identifier, then their operands. -/
def getOperation : Nat → Get Instr
  | 0x01 => getBool.map .rxSymbol
  | 0x02 => getWindow.map .syncMatch
  | 0x03 => getWindow.map .processBurst
  | 0x10 => getOperand.map .bvSize
  | 0x11 => getOperand.bind fun v => getNat.bind fun pos => (getBv 7).map fun n => .bvGetValue v pos n.toNat
  | 0x12 => getOperand.bind fun v => getInt.bind fun pos => getInt.map fun n => .bvExtract v pos n
  | 0x13 => getOperand.bind fun u => getOperand.map fun v => .bvAppend u v
  | 0x14 => getOperand.bind fun v => getNat.bind fun offset => getOptInt.map fun len => .bvFromOffset v offset len
  | 0x15 => getOperand.bind fun v => getNat.map fun n => .bvResize v n
  | 0x16 => getOperand.bind fun a => getOperand.map fun b => .hamming a b
  | 0x20 => getVec.bind fun x => (getBv 32).map fun key => .descramble x key
  | 0x21 => getSize.bind fun size => (getBits (blockK size)).map fun x => .deinterleave x size
  | 0x22 => getSize.bind fun size => (getBits (blockK size)).map .depuncture23
  | 0x24 => getSize.bind fun size => (getSyms (blockK size / 3 * 8)).map .viterbiDecode
  | 0x26 => (getBits 30).map .rmDecode
  | 0x27 => getNat.bind fun n => (getBits (n + 16)).map .crc16Check
  | 0x30 => .value .timeInc
  | 0x31 => (getBv 2).bind fun tnCode => (getBv 5).bind fun fn => (getBv 6).map fun mn => .timeSet tnCode fn mn
  | 0x32 => (getBv 10).bind fun mcc => (getBv 14).bind fun mnc => (getBv 6).map fun cc => .scrambleInit mcc mnc cc
  | 0x40 => getWindow.bind fun w => getClass.map fun type => .lmacBurst w type
  | 0x41 => getWindow.map .lmacSb
  | 0x42 => getWindow.map .lmacNdb
  | 0x43 => getWindow.map .lmacNdbSf
  | 0x44 => getSize.bind fun size => (getBits (blockK size)).bind fun x => (getBv 32).map fun key => .fecDecodeBlock x key size
  | 0x45 => (getBits 30).bind fun x => (getBv 32).map fun key => .aachDecodeBlock x key
  | 0x50 => getChannel.bind fun ch => getVec.map fun blk => .umacDispatch blk ch
  | 0x51 => getVec.map .dissectAach
  | 0x52 => getVec.map .dissectBsch
  | 0x53 => getSig.bind fun ch => getVec.map fun p => .dissectSysinfo p ch
  | 0x54 => (getBv 6).map .decodeLength
  | 0x55 => getSig.bind fun ch => getVec.map fun p => .dissectMacResource p ch
  | 0x56 => getVec.map .stripFillBits
  | 0x57 => getVec.bind fun p => getNat.bind fun pos => (getBv 3).map fun t => .parseAddress p pos (t + 1)
  | 0x58 => getVec.bind fun p => getNat.map fun pos => .parseChanAlloc p pos
  | 0x59 => getSig.bind fun ch => getVec.map fun p => .dissectMacFrag p ch
  | 0x5A => getSig.bind fun ch => getVec.map fun p => .dissectMacEnd p ch
  | 0x5B => getVec.map .dissectMacDBlck
  | 0x5C => getSig.bind fun ch => getVec.map fun p => .dissectAccessDefine p ch
  | 0x5D => getSig.bind fun ch => getVec.map fun blk => .dissociationLoop blk ch
  | 0x5E => getVec.map .emitTchS
  | 0x5F => getWhy.bind fun why => getSig.bind fun ch => getVec.map fun p => .ignoreReserved p ch why
  | 0x60 => getAddress.bind fun a => getTime.map fun t => .fragStart a t
  | 0x61 => getAddress.bind fun a => getVec.map fun v => .fragAppend v a
  | 0x62 => getAddress.map .fragGetSdu
  | 0x63 => .value .fragStop
  | 0x70 => (getBv 8).map .inputUnpack
  | 0x71 => getChannel.bind fun ch => getVec.map fun sdu => .emit ch sdu
  | 0x72 => .value .stop
  | 0x73 => .value .ioError
  | 0x74 => .value .reset
  | _ => .fail .noSuchRow

/-- The PDU-type rows by the four bits of the window, the channel deciding between the two rows of type 11 (30 R101). -/
def pduInstr (code : BitVec 4) (ch : SigChannel) (rest : Bits) : Instr :=
  if code.extractLsb' 2 2 = 0b00#2 then .macResource (code.extractLsb' 0 2) rest ch
  else if code.extractLsb' 1 3 = 0b010#3 then .macFrag (code.extractLsb' 0 1) rest ch
  else if code.extractLsb' 1 3 = 0b011#3 then .macEnd (code.extractLsb' 0 1) rest ch
  else if code = 0b1000#4 then .sysinfo rest ch
  else if code = 0b1001#4 then .accessDefine rest ch
  else if code.extractLsb' 1 3 = 0b101#3 then .reserved10x (code.extractLsb' 0 1) rest ch
  else if ch = .schF then .macDBlck (code.extractLsb' 0 2) rest
  else .reserved11 (code.extractLsb' 0 2) rest ch

/-- The length-indication rows by the six bits of the code (30 R102). -/
def lengthIndicationInstr (code : BitVec 6) : Instr :=
  if code = 0b000000#6 then .liReserved0
  else if code = 0b000001#6 then .liOctets1
  else if code.extractLsb' 1 5 = 0b00001#5 then .liOctets2to3 (code.extractLsb' 0 1)
  else if code.extractLsb' 2 4 = 0b0001#4 then .liOctets4to7 (code.extractLsb' 0 2)
  else if code.extractLsb' 3 3 = 0b001#3 then .liOctets8to15 (code.extractLsb' 0 3)
  else if code.extractLsb' 1 5 = 0b01000#5 then .liOctets16to17 (code.extractLsb' 0 1)
  else if code = 0b010010#6 then .liOctets18
  else if code = 0b010011#6 then .liOctets19
  else if code.extractLsb' 2 4 = 0b0101#4 then .liOctets20to23 (code.extractLsb' 0 2)
  else if code.extractLsb' 3 3 = 0b011#3 then .liOctets24to31 (code.extractLsb' 0 3)
  else if code.extractLsb' 4 2 = 0b10#2 then .liOctets32to47 (code.extractLsb' 0 4)
  else if code.extractLsb' 3 3 = 0b110#3 then .liOctets48to55 (code.extractLsb' 0 3)
  else if code.extractLsb' 1 5 = 0b11100#5 then .liOctets56to57 (code.extractLsb' 0 1)
  else if code = 0b111010#6 then .liOctets58
  else if code = 0b111011#6 then .liReserved59
  else if code.extractLsb' 1 5 = 0b11110#5 then .liReserved60to61 (code.extractLsb' 0 1)
  else if code = 0b111110#6 then .liSecondHalfStolen
  else .liStartFragmenting

/-- The address-type rows by the three bits of the code (30 R103). -/
def getAddressType : BitVec 3 → Get Instr
  | 0#3 => getVec.map .atNull
  | 1#3 => getVec.bind fun p => getNat.map fun pos => .atSsi p pos
  | 2#3 => getVec.bind fun p => getNat.map fun pos => .atEventLabel p pos
  | 3#3 => getVec.bind fun p => getNat.map fun pos => .atUssi p pos
  | 4#3 => getVec.bind fun p => getNat.map fun pos => .atSmi p pos
  | 5#3 => getVec.bind fun p => getNat.map fun pos => .atSsiEventLabel p pos
  | 6#3 => getVec.bind fun p => getNat.map fun pos => .atSsiUsageMarker p pos
  | _ => getVec.bind fun p => getNat.map fun pos => .atSmiEventLabel p pos

/-- The AACH rows by priority: frame 18, header 00, then the first field (30 R104). -/
def aachInstr (frame18 : Bool) (header : BitVec 2) (field1 tail : BitVec 6) : Instr :=
  if frame18 then .aachFrame18 header field1 tail
  else if header = 0 then .aachHeader00 field1 tail
  else if field1 = 0 then .aachUnallocated header tail
  else if field1 = 1 then .aachAssigned header tail
  else if field1 = 2 then .aachCommon header tail
  else if field1 = 3 then .aachReserved header tail
  else .aachTraffic header field1 tail

/-- The burst-class row of a 38-bit window (30 R100). -/
def getBurst38 (code : BitVec 38) : Get Instr :=
  if code = Params.default.tsSync then (getBits 214).bind fun head => (getBits 258).map fun tail => .burstSb head tail
  else .fail .noSuchRow

/-- The burst-class rows of a 22-bit window (30 R100). -/
def getBurst22 (code : BitVec 22) : Get Instr :=
  if code = Params.default.tsN1 then (getBits 244).bind fun head => (getBits 244).map fun tail => .burstNdb head tail
  else if code = Params.default.tsN2 then (getBits 244).bind fun head => (getBits 244).map fun tail => .burstNdbSf head tail
  else .fail .noSuchRow

/-- The formats of the opcode table, by the port's 3-bit tag: operation identifiers, the two burst-class windows, PDU types, length indications, address types, AACH usages. -/
def getFormat : BitVec 3 → Get Instr
  | 0#3 => (getBv 8).bind fun code => getOperation code.toNat
  | 1#3 => (getBv 38).bind getBurst38
  | 2#3 => (getBv 22).bind getBurst22
  | 3#3 => (getBv 4).bind fun code => getSig.bind fun ch => getVec.map fun rest => pduInstr code ch rest
  | 4#3 => (getBv 6).map lengthIndicationInstr
  | 5#3 => (getBv 3).bind getAddressType
  | 6#3 => (getBv 2).bind fun header => (getBv 6).bind fun field1 => getBool.bind fun frame18 => (getBv 6).map fun tail =>
      aachInstr frame18 header field1 tail
  | _ => .fail .noSuchFormat

/-- The decoder: one operation, then zero padding; only well-formed operations are given. -/
def decode (w : Bits) : Except DecodeError Instr :=
  match ((getBv 3).bind getFormat) w with
  | .error e => .error e
  | .ok (i, rest) =>
    if rest.any id then .error .trailingBits
    else if i.wf then .ok i
    else .error .badOperand

/-! ### Writers -/

def putNat (n : Nat) : Bits := bvToBits (BitVec.ofNat 16 n)
def putInt (n : Int) : Bits := bvToBits (BitVec.ofInt 16 n)
def putVec (v : Bits) : Bits := putNat v.length ++ v
def putBool (b : Bool) : Bits := bvToBits (BitVec.ofBool b)

def symCode : Sym → BitVec 2
  | .zero => 0b00#2
  | .one => 0b01#2
  | .erased => 0b10#2

def blockSizeCode : BlockSize → BitVec 2
  | .k120 => 0b00#2
  | .k216 => 0b01#2
  | .k432 => 0b10#2

def burstClassCode : BurstClass → BitVec 2
  | .sb => 0b00#2
  | .ndb => 0b01#2
  | .ndbSf => 0b10#2

def sigChannelCode : SigChannel → BitVec 2
  | .schF => 0b00#2
  | .schHd => 0b01#2
  | .stch => 0b10#2
  | .bnch => 0b11#2

def channelCode : LogicalChannel → BitVec 4
  | .aach => 0#4
  | .blch => 1#4
  | .bnch => 2#4
  | .bsch => 3#4
  | .schF => 4#4
  | .schHd => 5#4
  | .stch => 6#4
  | .tchS => 7#4
  | .tch => 8#4
  | .unknown => 9#4

def putSize (x : BlockSize) : Bits := bvToBits (blockSizeCode x)
def putClass (x : BurstClass) : Bits := bvToBits (burstClassCode x)
def putSig (x : SigChannel) : Bits := bvToBits (sigChannelCode x)
def putChannel (x : LogicalChannel) : Bits := bvToBits (channelCode x)

def putSyms : List Sym → Bits
  | [] => []
  | y :: ys => bvToBits (symCode y) ++ putSyms ys

def putOperand : VecOperand → Bits
  | .value v => bvToBits 0b00#2 ++ putVec v
  | .syncBuffer => bvToBits 0b01#2
  | .fragBuffer => bvToBits 0b10#2

def putAddress (a : MacAddress) : Bits :=
  bvToBits a.addressType ++ bvToBits a.ssi ++ bvToBits a.ussi ++ bvToBits a.smi ++ bvToBits a.eventLabel ++
    bvToBits a.usageMarker ++ bvToBits a.encryptionMode

def putTime (t : TetraTime) : Bits :=
  bvToBits (BitVec.ofNat 2 (t.tn - 1)) ++ bvToBits (BitVec.ofNat 5 (t.fn - 1)) ++ bvToBits (BitVec.ofNat 6 (t.mn - 1))

def putOptInt : Option Int → Bits
  | none => putBool false
  | some n => putBool true ++ putInt n

def putWhy : ReservedWhy → Bits
  | .subtype t sub => putBool false ++ bvToBits t ++ bvToBits sub
  | .channel t ch => putBool true ++ bvToBits t ++ putSig ch

/-- The block size whose length a block has; the smallest where none has. -/
def sizeOfLength (n : Nat) : BlockSize := if n = 432 then .k432 else if n = 216 then .k216 else .k120

/-- An operation's format tag and identifier. -/
def op (code : BitVec 8) : Bits := bvToBits 0#3 ++ bvToBits code

/-- A PDU-type row's format tag, code, channel and rest. -/
def putPdu (code : BitVec 4) (ch : SigChannel) (rest : Bits) : Bits :=
  bvToBits 3#3 ++ bvToBits code ++ putSig ch ++ putVec rest

/-- A length-indication row's format tag and code. -/
def putLi (code : BitVec 6) : Bits := bvToBits 4#3 ++ bvToBits code

/-- An address-type row's format tag, code, PDU and position. -/
def putAt (code : BitVec 3) (p : Bits) (pos : Nat) : Bits := bvToBits 5#3 ++ bvToBits code ++ putVec p ++ putNat pos

/-- An AACH row's format tag, code, frame-18 bit and unread bits. -/
def putAach (frame18 : Bool) (header : BitVec 2) (field1 tail : BitVec 6) : Bits :=
  bvToBits 6#3 ++ bvToBits header ++ bvToBits field1 ++ putBool frame18 ++ bvToBits tail

/-- The encoder: the word of an operation, without padding. -/
def encode : Instr → Bits
  | .rxSymbol b => op 0x01 ++ putBool b
  | .syncMatch w => op 0x02 ++ w
  | .processBurst w => op 0x03 ++ w
  | .bvSize v => op 0x10 ++ putOperand v
  | .bvGetValue v pos n => op 0x11 ++ putOperand v ++ putNat pos ++ bvToBits (BitVec.ofNat 7 n)
  | .bvExtract v pos n => op 0x12 ++ putOperand v ++ putInt pos ++ putInt n
  | .bvAppend u v => op 0x13 ++ putOperand u ++ putOperand v
  | .bvFromOffset v offset len => op 0x14 ++ putOperand v ++ putNat offset ++ putOptInt len
  | .bvResize v n => op 0x15 ++ putOperand v ++ putNat n
  | .hamming a b => op 0x16 ++ putOperand a ++ putOperand b
  | .descramble x key => op 0x20 ++ putVec x ++ bvToBits key
  | .deinterleave x size => op 0x21 ++ putSize size ++ x
  | .depuncture23 x => op 0x22 ++ putSize (sizeOfLength x.length) ++ x
  | .viterbiDecode y => op 0x24 ++ putSize (sizeOfLength (y.length / 8 * 3)) ++ putSyms y
  | .rmDecode c => op 0x26 ++ c
  | .crc16Check b => op 0x27 ++ putNat (b.length - 16) ++ b
  | .timeInc => op 0x30
  | .timeSet tnCode fn mn => op 0x31 ++ bvToBits tnCode ++ bvToBits fn ++ bvToBits mn
  | .scrambleInit mcc mnc cc => op 0x32 ++ bvToBits mcc ++ bvToBits mnc ++ bvToBits cc
  | .lmacBurst w type => op 0x40 ++ w ++ putClass type
  | .lmacSb w => op 0x41 ++ w
  | .lmacNdb w => op 0x42 ++ w
  | .lmacNdbSf w => op 0x43 ++ w
  | .fecDecodeBlock x key size => op 0x44 ++ putSize size ++ x ++ bvToBits key
  | .aachDecodeBlock x key => op 0x45 ++ x ++ bvToBits key
  | .umacDispatch blk ch => op 0x50 ++ putChannel ch ++ putVec blk
  | .dissectAach a => op 0x51 ++ putVec a
  | .dissectBsch b => op 0x52 ++ putVec b
  | .dissectSysinfo p ch => op 0x53 ++ putSig ch ++ putVec p
  | .decodeLength li => op 0x54 ++ bvToBits li
  | .dissectMacResource p ch => op 0x55 ++ putSig ch ++ putVec p
  | .stripFillBits p => op 0x56 ++ putVec p
  | .parseAddress p pos addrType => op 0x57 ++ putVec p ++ putNat pos ++ bvToBits (addrType - 1)
  | .parseChanAlloc p pos => op 0x58 ++ putVec p ++ putNat pos
  | .dissectMacFrag p ch => op 0x59 ++ putSig ch ++ putVec p
  | .dissectMacEnd p ch => op 0x5A ++ putSig ch ++ putVec p
  | .dissectMacDBlck p => op 0x5B ++ putVec p
  | .dissectAccessDefine p ch => op 0x5C ++ putSig ch ++ putVec p
  | .dissociationLoop blk ch => op 0x5D ++ putSig ch ++ putVec blk
  | .emitTchS x => op 0x5E ++ putVec x
  | .ignoreReserved p ch why => op 0x5F ++ putWhy why ++ putSig ch ++ putVec p
  | .fragStart a t => op 0x60 ++ putAddress a ++ putTime t
  | .fragAppend v a => op 0x61 ++ putAddress a ++ putVec v
  | .fragGetSdu a => op 0x62 ++ putAddress a
  | .fragStop => op 0x63
  | .inputUnpack byte => op 0x70 ++ bvToBits byte
  | .emit ch sdu => op 0x71 ++ putChannel ch ++ putVec sdu
  | .stop => op 0x72
  | .ioError => op 0x73
  | .reset => op 0x74
  | .macResource lo rest ch => putPdu (0b00#2 ++ lo) ch rest
  | .macFrag lo rest ch => putPdu (0b010#3 ++ lo) ch rest
  | .macEnd lo rest ch => putPdu (0b011#3 ++ lo) ch rest
  | .sysinfo rest ch => putPdu 0b1000#4 ch rest
  | .accessDefine rest ch => putPdu 0b1001#4 ch rest
  | .reserved10x lo rest ch => putPdu (0b101#3 ++ lo) ch rest
  | .macDBlck lo rest => putPdu (0b11#2 ++ lo) .schF rest
  | .reserved11 lo rest ch => putPdu (0b11#2 ++ lo) ch rest
  | .liReserved0 => putLi 0b000000#6
  | .liOctets1 => putLi 0b000001#6
  | .liOctets2to3 lo => putLi (0b00001#5 ++ lo)
  | .liOctets4to7 lo => putLi (0b0001#4 ++ lo)
  | .liOctets8to15 lo => putLi (0b001#3 ++ lo)
  | .liOctets16to17 lo => putLi (0b01000#5 ++ lo)
  | .liOctets18 => putLi 0b010010#6
  | .liOctets19 => putLi 0b010011#6
  | .liOctets20to23 lo => putLi (0b0101#4 ++ lo)
  | .liOctets24to31 lo => putLi (0b011#3 ++ lo)
  | .liOctets32to47 lo => putLi (0b10#2 ++ lo)
  | .liOctets48to55 lo => putLi (0b110#3 ++ lo)
  | .liOctets56to57 lo => putLi (0b11100#5 ++ lo)
  | .liOctets58 => putLi 0b111010#6
  | .liReserved59 => putLi 0b111011#6
  | .liReserved60to61 lo => putLi (0b11110#5 ++ lo)
  | .liSecondHalfStolen => putLi 0b111110#6
  | .liStartFragmenting => putLi 0b111111#6
  | .atNull p => bvToBits 5#3 ++ bvToBits 0#3 ++ putVec p
  | .atSsi p pos => putAt 1 p pos
  | .atEventLabel p pos => putAt 2 p pos
  | .atUssi p pos => putAt 3 p pos
  | .atSmi p pos => putAt 4 p pos
  | .atSsiEventLabel p pos => putAt 5 p pos
  | .atSsiUsageMarker p pos => putAt 6 p pos
  | .atSmiEventLabel p pos => putAt 7 p pos
  | .aachFrame18 header field1 tail => putAach true header field1 tail
  | .aachHeader00 field1 tail => putAach false 0 field1 tail
  | .aachUnallocated header tail => putAach false header 0 tail
  | .aachAssigned header tail => putAach false header 1 tail
  | .aachCommon header tail => putAach false header 2 tail
  | .aachReserved header tail => putAach false header 3 tail
  | .aachTraffic header field1 tail => putAach false header field1 tail
  | .burstSb head tail => bvToBits 1#3 ++ bvToBits Params.default.tsSync ++ head ++ tail
  | .burstNdb head tail => bvToBits 2#3 ++ bvToBits Params.default.tsN1 ++ head ++ tail
  | .burstNdbSf head tail => bvToBits 2#3 ++ bvToBits Params.default.tsN2 ++ head ++ tail

/-! ### The opcode table's numbering -/

/-- The longest operand part among operations whose operands are all zero. -/
def zeroOperands : Bits := List.replicate 768 false

/-- The word of the port for the low bits of `w` in a format, operands zero. -/
def tableWord (tag : BitVec 3) (width w : Nat) : Bits := bvToBits tag ++ natToBits width w ++ zeroOperands

/-- The words an opcode-table word may stand for, in the order they are tried. A width of 3, 4 or 6 bits names its format; a word of one byte may be an operation, else a row of the narrowest selector window that holds it; the longer words are the 22-bit and 38-bit burst classes (log entry 3). -/
def tableWords (nbits w : Nat) : List Bits :=
  if nbits ≤ 3 then [tableWord 5 3 w]
  else if nbits ≤ 4 then [tableWord 3 4 w]
  else if nbits ≤ 6 then [tableWord 4 6 w]
  else if nbits ≤ 8 then
    [tableWord 0 8 w] ++ (if w < 8 then [tableWord 5 3 w] else []) ++ (if w < 16 then [tableWord 3 4 w] else []) ++
      (if w < 64 then [tableWord 4 6 w] else []) ++ [tableWord 6 8 w]
  else if nbits ≤ 24 then [tableWord 2 22 w]
  else [tableWord 1 38 w]

/-- The first of those words that decodes; the first word where none does. -/
def portWord (nbits w : Nat) : Bits :=
  let ws := tableWords nbits w
  (ws.find? fun v => (decode v).isOk).getD (ws.headD [])

/-- The instruction the decoder reads from an opcode-table word. -/
def decodeTableWord (nbits w : Nat) : Option Instr := (decode (portWord nbits w)).toOption

end Sys2Proof
end

