-- ==== Sys2Proof/Machine/State.lean ====
section
/-! DEFINITION. The state of the block: everything 10_state.md gives it, the streams of the environment it is connected to, and the fields that are the model's own (named as such). Plain data throughout. -/

namespace Sys2Proof.Machine

/-- The five values of `Mac.downlink_usage`, in the spec's encoding order 0 to 4 (10 R28). -/
inductive DownlinkUsage where
  | unallocated | assignedControl | commonControl | reserved | traffic
  deriving DecidableEq, Repr

/-- The burst synchronizer's state (10 R20 to R23). -/
structure SyncState where
  synchronized : Bool
  bitCounter : Nat
  buffer : Bits
  lossReported : Bool
  deriving DecidableEq, Repr

/-- The cell state (10 R25 to R27). -/
structure CellState where
  mcc : BitVec 10
  mnc : BitVec 14
  colourCode : BitVec 6
  scramblingCode : BitVec 32
  downlinkFreqHz : Int
  deriving DecidableEq, Repr

/-- The MAC state (10 R28 to R31). -/
structure MacState where
  downlinkUsage : DownlinkUsage
  downlinkUsageMarker : BitVec 6
  logicalChannel : LogicalChannel
  secondSlotStolen : Bool
  deriving DecidableEq, Repr

/-- The one fragment reassembly slot (10 R34). -/
structure FragState where
  stopped : Bool
  addr : MacAddress
  ssi : BitVec 24
  startTime : TetraTime
  fragmentCount : Nat
  buffer : Bits
  encryptionMode : BitVec 2
  usageMarker : BitVec 6
  deriving DecidableEq, Repr

/-- The per-burst working state (10 R35, R36). -/
structure BurstState where
  dissocCount : Nat
  type : BurstClass
  deriving DecidableEq, Repr

/-- A record of the output stream (30 R117). -/
structure Emission where
  channel : LogicalChannel
  sdu : Bits
  addr : MacAddress
  time : TetraTime
  deriving DecidableEq, Repr

/-- What a `BLOCK_IGNORED` record names: the BKN2 of an NDB_SF, or a channel with no dissector (60 R401). -/
inductive IgnoredBlock where
  | bkn2
  | channel (ch : LogicalChannel)
  deriving DecidableEq, Repr

/-- The unit a `SHORT_PDU` record names (60 R401). -/
inductive ShortUnit where
  | bsch | sysinfo
  deriving DecidableEq, Repr

/-- A record of the log stream: one constructor per code of 60 R401, its info fields the arguments. -/
inductive LogRecord where
  | syncLoss
  | burstReject (dSync dN1 dN2 : Nat)
  | fecFail (k nCrc : Nat)
  | blockIgnored (what : IgnoredBlock)
  | outOfRange (pos n size : Nat)
  | reservedLength (li : BitVec 6)
  | reservedPdu (why : ReservedWhy)
  | dissocOverflow (ch : SigChannel)
  | endLength (li : BitVec 6)
  | shortPdu (pdu : ShortUnit) (size : Nat)
  | defragFail (ssi : BitVec 24)
  | defragStopped (ssi : BitVec 24)
  | defragSsiMismatch (stored given : BitVec 24)
  | defragOverflow (newLength : Nat)
  | timeInvalid (tn fn mn : Nat)
  | macSync (type : BurstClass) (cc : BitVec 6) (tn fn mn : Nat) (mcc : BitVec 10) (mnc : BitVec 14)
  | ioError
  deriving DecidableEq, Repr

/-- One record the block appends to its output side; the two streams are kept as one list, in the order the records are made (60 R402, 47 R380). -/
inductive Output where
  | emission (e : Emission)
  | log (r : LogRecord)
  deriving DecidableEq, Repr

/-- The environment's side of the inputs: bytes not yet read, symbols of the byte being read, the pending control inputs and the levels of the two configuration inputs (47 R387). -/
structure Environment where
  bytes : List Byte
  symbols : Bits
  resetPending : Bool
  stopPending : Bool
  ioErrorPending : Bool
  keepFillBitsLevel : Bool
  packModeLevel : Bool
  deriving DecidableEq, Repr

/-- How a dissection unit ended (45 R281). -/
inductive UnitKind where
  | resource | null | fragStart | reservedLength | frag | fragEnd | dropped | dBlck | sysinfo | accessDefine | short | ignored
  deriving DecidableEq, Repr

/-- The result record of a dissection unit: its kind, the working PDU after fill-bit stripping, and the PDU's length where the unit knows it (45 R281). -/
structure UnitResult where
  kind : UnitKind
  pdu : Bits
  sizeInMac : Option Int
  deriving DecidableEq, Repr

/-- The model's own: what the last operation returned (the "result" of its row of the opcode table). -/
inductive Result where
  | none
  | flag (b : Bool)
  | number (n : Nat)
  | bits (v : Bits)
  | symbols (y : List Sym)
  | code (s : BitVec 32)
  | fail
  | raised (e : OutOfRange)
  | address (a : MacAddress) (pos : Nat)
  | position (pos : Nat)
  | unit (r : UnitResult)
  | sdu (v : Bits) (encryptionMode : BitVec 2) (usageMarker : BitVec 6)
  deriving DecidableEq, Repr

/-- The state of the block. -/
structure State where
  /-- `Sync` (10 R20 to R23) -/
  sync : SyncState
  /-- `Time` (10 R24) -/
  time : TetraTime
  /-- `Cell` (10 R25 to R27) -/
  cell : CellState
  /-- `Mac` (10 R28 to R31) -/
  mac : MacState
  /-- `Addr` (10 R32) -/
  addr : MacAddress
  /-- `UM_ENC[0..63]` (10 R33) -/
  umEnc : Vector (BitVec 2) 64
  /-- `Frag` (10 R34) -/
  frag : FragState
  /-- `Burst` (10 R35, R36) -/
  burst : BurstState
  /-- `Ctl.halted` (10 R37) -/
  halted : Bool
  /-- `KEEP_FILL_BITS`, as sampled at reset (47 R381) -/
  keepFillBits : Bool
  /-- `PACK_MODE`, as sampled at reset (47 R381) -/
  packMode : Bool
  /-- the parameters of 00 R7 -/
  params : Params
  /-- the emission and log streams, in order (10 R39) -/
  output : List Output
  /-- the input side, owned by the environment (10 R39) -/
  env : Environment
  /-- `frame_found`, the result signal of the last step (47 R387) -/
  frameFound : Bool
  /-- the model's own: the operation port, one bit vector per operation word -/
  ops : List Bits
  /-- the model's own: what the last operation returned -/
  result : Result
  deriving DecidableEq, Repr

/-- Why the machine stops with a fault: never. The block has no trap, and every error has a fixed local treatment after which the step goes on (60 R400). -/
inductive Fault where
  deriving DecidableEq, Repr

/-- Why the machine refuses an operation. -/
inductive Refusal where
  /-- raised by `exec` for an instruction that has no meaning in the model; safe -/
  | notModelled (mnemonic : String)
  /-- raised by an operation handed operands outside its domain, which no rule of the block creates and for which the spec's treatment is `refuse` (93 U5); safe -/
  | outsideDomain (operation : String)
  /-- raised by `step` where the word at the operation port is no operation; safe -/
  | undecodable (why : DecodeError)
  deriving DecidableEq, Repr

/-- The address with every field 0 (10 R32). -/
def zeroAddress : MacAddress := ⟨0, 0, 0, 0, 0, 0, 0⟩

/-- The machine right after reset (70 R440), with the parameters' defaults, empty streams and nothing pending. -/
def State.reset : State where
  sync := ⟨false, 0, [], true⟩
  time := ⟨1, 1, 1⟩
  cell := ⟨0, 0, 0, 3, 0⟩
  mac := ⟨.unallocated, 0, .unknown, false⟩
  addr := zeroAddress
  umEnc := Vector.replicate 64 0
  frag := ⟨true, zeroAddress, 0, ⟨1, 1, 1⟩, 0, [], 0, 0⟩
  burst := ⟨0, Config.burstTypeAtReset⟩
  halted := false
  keepFillBits := false
  packMode := false
  params := Params.default
  output := []
  env := ⟨[], [], false, false, false, false, false⟩
  frameFound := false
  ops := []
  result := .none

end Sys2Proof.Machine
end

