-- ==== Sys2Proof/Machine/Ops.lean ====
section
/-! DEFINITION. The named operations over the state: one setter per field, the output side, and what an out-of-range read does to the unit that makes it. Every write of the block goes through one of these. -/

namespace Sys2Proof.Machine

/-- What a step or a meaning answers. -/
abbrev Answer := Host.Outcome State Fault Refusal

def State.setSync (s : State) (x : SyncState) : State := { s with sync := x }
def State.setTime (s : State) (x : TetraTime) : State := { s with time := x }
def State.setCell (s : State) (x : CellState) : State := { s with cell := x }
def State.setMac (s : State) (x : MacState) : State := { s with mac := x }
def State.setAddr (s : State) (x : MacAddress) : State := { s with addr := x }
def State.setUmEnc (s : State) (x : Vector (BitVec 2) 64) : State := { s with umEnc := x }
def State.setFrag (s : State) (x : FragState) : State := { s with frag := x }
def State.setBurst (s : State) (x : BurstState) : State := { s with burst := x }
def State.setHalted (s : State) (x : Bool) : State := { s with halted := x }
def State.setEnv (s : State) (x : Environment) : State := { s with env := x }
def State.setFrameFound (s : State) (x : Bool) : State := { s with frameFound := x }
def State.setOps (s : State) (x : List Bits) : State := { s with ops := x }

/-- The model's own: what the operation returned. -/
def State.returns (s : State) (r : Result) : State := { s with result := r }

/-- Append one record to the output side (10 R39, 47 R383). -/
def State.push (s : State) (o : Output) : State := { s with output := s.output ++ [o] }

/-- `log(code, info)`: one record on the log stream (60 R402). -/
def State.log (s : State) (r : LogRecord) : State := s.push (.log r)

/-- `EMIT(ch, sdu)`: one record on the output stream with `Addr` and `Time` as they stand; an empty TM-SDU emits nothing (47 R383, 45 R299). -/
def State.emit (s : State) (ch : LogicalChannel) (sdu : Bits) : State :=
  if sdu.isEmpty then s else s.push (.emission ⟨ch, sdu, s.addr, s.time⟩)

/-- `UM_ENC[um] <- mode` (10 R33). -/
def State.setMarkerEncryption (s : State) (um : BitVec 6) (mode : BitVec 2) : State :=
  s.setUmEnc (s.umEnc.set um.toNat mode um.isLt)

/-- `Mac.logical_channel <- ch` (44 R247). -/
def State.setLogicalChannel (s : State) (ch : LogicalChannel) : State :=
  s.setMac { s.mac with logicalChannel := ch }

/-- What `OutOfRange` does, the block's nearest thing to an exception: the unit is abandoned with no state written and no emission, and `OUT_OF_RANGE` is logged. Nothing is saved, no mode changes and there is no handler to return from (60 R400, R404, R406; 45 R297). -/
def abandonUnit (e : OutOfRange) (s : State) : State := s.log (.outOfRange e.pos e.n e.size)

/-- The state after a unit that may raise `OutOfRange`, run from `s` (45 R297). -/
def caught (s : State) : Except OutOfRange State → State
  | .ok s' => s'
  | .error e => abandonUnit e s

/-- The emission stream (47 R383). -/
def State.emissions (s : State) : List Emission :=
  s.output.filterMap fun | .emission e => some e | .log _ => none

/-- The log stream (60 R402). -/
def State.logs (s : State) : List LogRecord :=
  s.output.filterMap fun | .log r => some r | .emission _ => none

/-- The 8-bit code of a log record (60 R401). -/
def LogRecord.code : LogRecord → BitVec 8
  | .syncLoss => 0x01
  | .burstReject .. => 0x02
  | .fecFail .. => 0x03
  | .blockIgnored .. => 0x04
  | .outOfRange .. => 0x05
  | .reservedLength .. => 0x06
  | .reservedPdu .. => 0x07
  | .dissocOverflow .. => 0x08
  | .endLength .. => 0x09
  | .shortPdu .. => 0x0A
  | .defragFail .. => 0x0B
  | .defragStopped .. => 0x0C
  | .defragSsiMismatch .. => 0x0D
  | .defragOverflow .. => 0x0E
  | .timeInvalid .. => 0x0F
  | .macSync .. => 0x10
  | .ioError => 0x11

/-- An operation that goes on, with what it returns. -/
def answer (s : State) (r : Result) : Answer := .next (s.returns r)

/-- An operation with a domain: outside it the operation is refused by name (93 U5). -/
def inDomain (ok : Bool) (operation : String) (a : Answer) : Answer :=
  if ok then a else .refused (.outsideDomain operation)

/-- A dissection unit as an operation of its own: its result record, or the raised `OutOfRange` after the unit was abandoned (45 R281, R297). -/
def answerUnit (s : State) : Except OutOfRange (UnitResult × State) → Answer
  | .ok (r, s') => answer s' (.unit r)
  | .error e => answer (abandonUnit e s) (.raised e)

end Sys2Proof.Machine
end

