-- ==== Sys2Proof/Machine/Operands.lean ====
section
/-! DEFINITION. The operand forms: vector operands, the parameters in the form the operations use them, and the function-valued parameters of this machine (00 R7). -/

namespace Sys2Proof.Machine

/-- The value of a vector operand. -/
def readVec (s : State) : VecOperand → Bits
  | .value v => v
  | .syncBuffer => s.sync.buffer
  | .fragBuffer => s.frag.buffer

/-- Replace a vector operand: a state element is written, a value is a local and leaves the state alone (40 R143). -/
def writeVec (s : State) : VecOperand → Bits → State
  | .value _, _ => s
  | .syncBuffer, w => s.setSync { s.sync with buffer := w }
  | .fragBuffer, w => s.setFrag { s.frag with buffer := w }

/-- `SCRAMBLE_SEQ(S, n)` of this machine (41 R160). -/
def scrambleSeq (p : Params) (key : BitVec 32) (n : Nat) : Bits :=
  match p.scrambleSeq with
  | .default => lfsrSeq n key
  | .other => (List.range n).map (Config.scrambleSeqOther key)

/-- `DESCRAMBLE(x, S)` (41 R160). -/
def descramble (p : Params) (x : Bits) (key : BitVec 32) : Bits := xorBits x (scrambleSeq p key x.length)

/-- `SCRAMBLE_INIT(mcc, mnc, cc)` of this machine (42 R205). -/
def scrambleInit (p : Params) (mcc : BitVec 10) (mnc : BitVec 14) (cc : BitVec 6) : BitVec 32 :=
  match p.scrambleInit with
  | .default => extendedColourCode mcc mnc cc
  | .other => Config.scrambleInitOther mcc mnc cc

/-- `VITERBI_DECODE(y)` of this machine (41 R164). -/
def viterbiDecode (p : Params) (y : List Sym) : Bits :=
  match p.viterbi with
  | .default => viterbiMl (Config.viterbiTie y) (Config.viterbiEndTie y) y
  | .other => Config.viterbiOther.decode p.punct y

/-- `RM_DECODE(c)` of this machine, on 30 bits (41 R166). -/
def rmDecode (c : Bits) : Bits := bvToBits (Config.rmCode.decode (BitVec.ofNat 30 (bitsToNat c)))

/-- `RM_ENCODE(m)` of this machine, on 14 bits (41 R165). -/
def rmEncodeBits (m : Bits) : Bits := bvToBits (rmEncode Config.rmCode.gen (BitVec.ofNat 14 (bitsToNat m)))

/-- The length of a burst window, `BURST_LEN` (00 R6). -/
def burstLen : Nat := 510

/-- `SYNC_RELOAD = 510 · 50` (00 R6). -/
def syncReload : Nat := 25500

/-- The source's length of a BSCH, the shortest one dissected (45 R283). -/
def bschMin : Nat := 60

/-- The source's minimum length of a SYSINFO (45 R284). -/
def sysinfoMin : Nat := 82

/-- `DUPLEX_OFFSET`, in Hz (00 R6). -/
def duplexOffset : Nat → Int
  | 0 => 0
  | 1 => 6250
  | 2 => -6250
  | _ => 12500

/-- The usage marker an address carries, as an address field of width 6, and the other fields, from the numbers a PDU's fields read as (30 R90). -/
def mkAddress (addrType ssi ussi smi eventLabel usageMarker : Nat) : MacAddress :=
  ⟨BitVec.ofNat 3 addrType, BitVec.ofNat 24 ssi, BitVec.ofNat 24 ussi, BitVec.ofNat 24 smi,
    BitVec.ofNat 10 eventLabel, BitVec.ofNat 6 usageMarker, 0⟩

end Sys2Proof.Machine
end

