-- ==== Sys2Proof/Machine/BlockCodes.lean ====
section
/-! DEFINITION. The block-code family: DESCRAMBLE, DEINTERLEAVE, DEPUNCTURE_2_3, VITERBI_DECODE, RM_DECODE, CRC16_CHECK (41 R160 to R168). Each is refused outside its domain (93 U5). -/

namespace Sys2Proof.Machine

/-- `DESCRAMBLE` (41 R160). -/
def execDescramble (x : Bits) (key : BitVec 32) (s : State) : Answer :=
  answer s (.bits (descramble s.params x key))

/-- `DEINTERLEAVE`, on exactly `K` bits (41 R161). -/
def execDeinterleave (x : Bits) (size : BlockSize) (s : State) : Answer :=
  inDomain (x.length == blockK size) "DEINTERLEAVE" (answer s (.bits (deinterleave size x)))

/-- `DEPUNCTURE_2_3` (41 R162). -/
def execDepuncture23 (x : Bits) (s : State) : Answer :=
  inDomain (isBlockLength x.length) "DEPUNCTURE_2_3" (answer s (.symbols (depuncture s.params.punct x)))

/-- `VITERBI_DECODE` (41 R164). -/
def execViterbiDecode (y : List Sym) (s : State) : Answer :=
  inDomain (isSymbolLength y.length) "VITERBI_DECODE" (answer s (.bits (viterbiDecode s.params y)))

/-- `RM_DECODE`, on exactly 30 bits (41 R166). -/
def execRmDecode (c : Bits) (s : State) : Answer :=
  inDomain (c.length == 30) "RM_DECODE" (answer s (.bits (rmDecode c)))

/-- `CRC16_CHECK`, on at least 16 bits (41 R167). -/
def execCrc16Check (b : Bits) (s : State) : Answer :=
  inDomain (16 ≤ b.length) "CRC16_CHECK" (answer s (.flag (crc16Check s.params.crcXorout b)))

end Sys2Proof.Machine
end

