-- ==== Sys2Proof/Machine/Flags.lean ====
section
/-! DEFINITION. The flags and tests of the block (10 R42): what sets and clears each flag, and every condition an operation branches on. -/

namespace Sys2Proof.Machine

/-- `d_begin`, the head's distance from `TS_N3_BEGIN` (43 R222). -/
def dBegin (p : Params) (w : Bits) : Nat := hamming (w.slice 0 12) (bvToBits p.tsN3Begin)

/-- `d_end`, the tail's distance from `TS_N3_END` (43 R222). -/
def dEnd (p : Params) (w : Bits) : Nat := hamming (w.slice 500 510) (bvToBits p.tsN3End)

/-- `matched`: `d_begin == 0` and `d_end < 2` (43 R222). -/
def windowMatches (p : Params) (w : Bits) : Bool := dBegin p w == 0 && dEnd p w < 2

/-- The value a counter register of the machine's width holds after a load (10 R21). -/
def counterLoad (p : Params) (n : Nat) : Nat := n % 2 ^ p.counterWidth

/-- The three writes of a match: `synchronized`, the counter, `loss_reported` (43 R222). -/
def setSynchronized (s : State) : State :=
  s.setSync { s.sync with synchronized := true, bitCounter := counterLoad s.params syncReload, lossReported := false }

/-- `GRACE_DUE()` (43 R223). -/
def graceDue (s : State) : Bool := s.sync.synchronized && s.sync.bitCounter % 510 == 0

/-- `Sync.sync_bit_counter <- n` (43 R224). -/
def setCounter (s : State) (n : Nat) : State := s.setSync { s.sync with bitCounter := n }

/-- What a counter that reaches 0 does: `synchronized` is cleared and the loss is reported once (43 R224). -/
def loseSync (s : State) : State :=
  (if s.sync.lossReported then s else s.log .syncLoss).setSync { s.sync with synchronized := false, lossReported := true }

/-- `COUNTER_TICK()` (43 R224). -/
def counterTick (s : State) : State :=
  match s.sync.bitCounter with
  | 0 => s
  | 1 => loseSync (setCounter s 0)
  | n + 2 => setCounter s (n + 1)

/-- `TRAFFIC_NOW()`, the test of an NDB (44 R243). -/
def trafficNow (s : State) : Bool := s.mac.downlinkUsage == .traffic && 1 ≤ s.time.fn && s.time.fn ≤ 17

/-- `TRAFFIC_MODE()`, the test of an NDB_SF (44 R243). -/
def trafficMode (s : State) : Bool := s.mac.downlinkUsage == .traffic

/-- Whether BKN2 of a signalling NDB_SF is the BNCH (44 R244, 42 R203). -/
def bnchSlot (t : TetraTime) : Bool := t.fn == 18 && (t.mn + t.tn) % 4 == 1

/-- The AACH usage map: the usage, and the marker where it is written (30 R104, 45 R282). -/
def aachUsage (fn header field1 : Nat) : DownlinkUsage × Option (BitVec 6) :=
  if fn == 18 then (.commonControl, none)
  else if header == 0 then (.commonControl, none)
  else if field1 == 0 then (.unallocated, none)
  else if field1 == 1 then (.assignedControl, none)
  else if field1 == 2 then (.commonControl, none)
  else if field1 == 3 then (.reserved, none)
  else (.traffic, some (BitVec.ofNat 6 field1))

/-- The writes of an AACH outcome (45 R282). -/
def setUsage (s : State) (u : DownlinkUsage × Option (BitVec 6)) : State :=
  s.setMac { s.mac with
    downlinkUsage := u.1
    downlinkUsageMarker := u.2.getD s.mac.downlinkUsageMarker }

/-- `Mac.second_slot_stolen <- x` (44 R240, 45 R286). -/
def setStolen (s : State) (x : Bool) : State := s.setMac { s.mac with secondSlotStolen := x }

end Sys2Proof.Machine
end

