-- ==== Sys2Proof/Machine/CellTime.lean ====
section
/-! DEFINITION. Cell state and TDMA time: TIME_INC, TIME_SET, SCRAMBLE_INIT (42 R200 to R206). -/

namespace Sys2Proof.Machine

/-- The next slot: `tn` wraps into `fn` at 4, `fn` into `mn` at 18, `mn` wraps at 60 (42 R200). -/
def timeNext (t : TetraTime) : TetraTime :=
  if t.tn < 4 then { t with tn := t.tn + 1 }
  else if t.fn < 18 then { t with tn := 1, fn := t.fn + 1 }
  else if t.mn < 60 then ⟨1, 1, t.mn + 1⟩
  else ⟨1, 1, 1⟩

/-- `TIME_INC` (42 R200). -/
def timeInc (s : State) : State := s.setTime (timeNext s.time)

/-- `TIME_SET`: all or nothing (42 R201). -/
def timeSet (tnCode fn mn : Nat) (s : State) : State :=
  if 1 ≤ fn ∧ fn ≤ 18 ∧ 1 ≤ mn ∧ mn ≤ 60 then s.setTime ⟨tnCode + 1, fn, mn⟩
  else s.log (.timeInvalid (tnCode + 1) fn mn)

/-- `TIME_INC` as an operation (42 R200). -/
def execTimeInc (s : State) : Answer := answer (timeInc s) .none

/-- `TIME_SET` as an operation (42 R201). -/
def execTimeSet (tnCode : BitVec 2) (fn : BitVec 5) (mn : BitVec 6) (s : State) : Answer :=
  answer (timeSet tnCode.toNat fn.toNat mn.toNat s) .none

/-- `SCRAMBLE_INIT` as an operation: it writes no state (42 R205). -/
def execScrambleInit (mcc : BitVec 10) (mnc : BitVec 14) (cc : BitVec 6) (s : State) : Answer :=
  answer s (.code (scrambleInit s.params mcc mnc cc))

end Sys2Proof.Machine
end

