-- ==== Sys2Proof/Machine/Defragmenter.lean ====
section
/-! DEFINITION. The MAC defragmenter: FRAG_START, FRAG_APPEND, FRAG_GET_SDU, FRAG_STOP (46 R360 to R365). -/

namespace Sys2Proof.Machine

/-- `FRAG_STOP` (46 R364). -/
def fragStop (s : State) : State := s.setFrag { s.frag with buffer := [], stopped := true }

/-- `FRAG_START(A, t)` (46 R361). -/
def fragStart (a : MacAddress) (t : TetraTime) (s : State) : State :=
  let s := if s.frag.buffer.isEmpty then s else s.log (.defragFail s.frag.ssi)
  s.setFrag ⟨false, a, a.ssi, t, 0, [], a.encryptionMode, a.usageMarker⟩

/-- `FRAG_APPEND(v, A)` (46 R362). The record of an overflow holds the length the buffer would have reached (60 R401; log entry 14). -/
def fragAppend (v : Bits) (a : MacAddress) (s : State) : State :=
  if s.frag.stopped then s.log (.defragStopped a.ssi)
  else if a.ssi ≠ s.frag.ssi then (fragStop s).log (.defragSsiMismatch s.frag.ssi a.ssi)
  else if s.frag.buffer.length + v.length > s.params.fragCap then
    (fragStop s).log (.defragOverflow (s.frag.buffer.length + v.length))
  else s.setFrag { s.frag with
    buffer := append s.frag.buffer v
    fragmentCount := min (s.frag.fragmentCount + 1) 65535 }

/-- The vector `FRAG_GET_SDU` returns (46 R363). -/
def fragSdu (s : State) : Bits := if s.frag.stopped then [] else s.frag.buffer

/-- `FRAG_START` as an operation (46 R361). -/
def execFragStart (a : MacAddress) (t : TetraTime) (s : State) : Answer := answer (fragStart a t s) .none

/-- `FRAG_APPEND` as an operation (46 R362). -/
def execFragAppend (v : Bits) (a : MacAddress) (s : State) : Answer := answer (fragAppend v a s) .none

/-- `FRAG_GET_SDU` as an operation: the encryption mode and the usage marker are those of the given address (46 R363). -/
def execFragGetSdu (a : MacAddress) (s : State) : Answer :=
  answer s (.sdu (fragSdu s) a.encryptionMode a.usageMarker)

/-- `FRAG_STOP` as an operation (46 R364). -/
def execFragStop (s : State) : Answer := answer (fragStop s) .none

end Sys2Proof.Machine
end

