-- ==== Sys2Proof/Machine/UpperMac.lean ====
section
/-! DEFINITION. The upper MAC dissector (45 R280 to R300). Every unit makes all its reads before it writes: a unit is a parse of the working PDU, which may raise `OutOfRange`, and then a commit. -/

namespace Sys2Proof.Machine

/-! ### Reads -/

/-- A field that is read and discarded; the position after it (45 R298). -/
def consume (p : Bits) (pos n : Nat) : Except OutOfRange Nat := do
  let _ ← getValue p pos n
  pure (pos + n)

/-- Several consumed fields, in order (45 R298). -/
def consumeAll (p : Bits) (pos : Nat) : List Nat → Except OutOfRange Nat
  | [] => pure pos
  | n :: ns => do
    let pos ← consume p pos n
    consumeAll p pos ns

/-- A 1-bit flag and, where it is 1, `n` consumed bits; the position after both (30 R89). -/
def consumeOptional (p : Bits) (pos n : Nat) : Except OutOfRange Nat := do
  let f ← getValue p pos 1
  if f = 1 then consume p (pos + 1) n else pure (pos + 1)

/-- A field read only where the format carries it: its value, 0 where absent, and the position after it. -/
def readIf (present : Bool) (p : Bits) (pos n : Nat) : Except OutOfRange (Nat × Nat) :=
  if present then do
    let x ← getValue p pos n
    pure (x, pos + n)
  else pure (0, pos)

/-- `STRIP_FILL_BITS`: trailing zeros, then the one terminating 1 (45 R287). -/
def stripFillBits (p : Bits) : Bits := ((p.reverse.dropWhile fun b => !b).drop 1).reverse

/-- The working PDU after its fill-bit flag: stripped where the flag is 1 and stripping is enabled (45 R286, R290). -/
def strippedIf (keep : Bool) (fill : Nat) (p : Bits) : Bits :=
  if fill = 1 ∧ keep = false then stripFillBits p else p

/-- `DECODE_LENGTH`, with `Y2 = Z2 = 1` (45 R285). -/
def decodeLength (li : BitVec 6) : Nat :=
  if li = 0b000000 ∨ li = 0b111011 ∨ li = 0b111100 ∨ li = 0b111101 then 0
  else if li.toNat ≤ 0b010010 then li.toNat
  else if li.toNat ≤ 0b111010 then 18 + (li.toNat - 18)
  else li.toNat

/-- `PARSE_ADDRESS`: the fields the type carries, in order; the others are 0 (45 R288). -/
def parseAddress (p : Bits) (pos addrType : Nat) : Except OutOfRange (MacAddress × Nat) := do
  let (ssi, pos) ← readIf (addrType == 1 || addrType == 5 || addrType == 6) p pos 24
  let (ussi, pos) ← readIf (addrType == 3) p pos 24
  let (smi, pos) ← readIf (addrType == 4 || addrType == 7) p pos 24
  let (eventLabel, pos) ← readIf (addrType == 2 || addrType == 5 || addrType == 7) p pos 10
  let (usageMarker, pos) ← readIf (addrType == 6) p pos 6
  pure (mkAddress addrType ssi ussi smi eventLabel usageMarker, pos)

/-- The augmented channel-allocation element (30 R92). -/
def parseAugmented (p : Bits) (pos : Nat) : Except OutOfRange Nat := do
  let pos ← consumeAll p pos [2, 3, 3, 3, 3, 3, 4, 5]
  let nap ← getValue p pos 2
  let pos := pos + 2
  let pos ← if nap = 0b01 then consume p pos 11 else pure pos
  let pos ← consume p pos 4
  let pos ← consumeOptional p pos 16
  let pos ← consumeOptional p pos 16
  consume p pos 1

/-- `PARSE_CHAN_ALLOC`; it reads the frame number (45 R289). -/
def parseChanAlloc (fn : Nat) (p : Bits) (pos : Nat) : Except OutOfRange Nat := do
  let pos ← consumeAll p pos [2, 4]
  let ulDl ← getValue p pos 2
  let pos ← consumeAll p (pos + 2) [1, 1, 12]
  let ext ← getValue p pos 1
  let pos := pos + 1
  let pos ← if ext = 1 then consumeAll p pos [4, 2, 3, 1] else pure pos
  let mon ← getValue p pos 2
  let pos := pos + 2
  let pos ← if mon = 0b00 ∧ fn = 18 then consume p pos 2 else pure pos
  if ulDl = 0 then parseAugmented p pos else pure pos

/-- The channel-allocation flag and, where it is 1, the element (45 R286, R291). -/
def parseChanAllocFlag (fn : Nat) (p : Bits) (pos : Nat) : Except OutOfRange Nat := do
  let f ← getValue p pos 1
  if f = 1 then parseChanAlloc fn p (pos + 1) else pure (pos + 1)

/-! ### Broadcast and access-assignment channels -/

/-- `DISSECT_AACH` (45 R282). -/
def dissectAach (a : Bits) (s : State) : Except OutOfRange State := do
  let header ← getValue a 0 2
  let field1 ← getValue a 2 6
  pure ((setUsage s (aachUsage s.time.fn header field1)).emit .aach a)

/-- The fields of a BSCH that a rule reads (30 R86). -/
structure BschFields where
  cc : BitVec 6
  tnCode : Nat
  fn : Nat
  mn : Nat
  mcc : BitVec 10
  mnc : BitVec 14
  deriving DecidableEq, Repr

/-- The reads of `DISSECT_BSCH` (45 R283). -/
def parseBsch (b : Bits) : Except OutOfRange BschFields := do
  let _ ← consume b 0 4
  let cc ← getValue b 4 6
  let tnCode ← getValue b 10 2
  let fn ← getValue b 12 5
  let mn ← getValue b 17 6
  let mcc ← getValue b 31 10
  let mnc ← getValue b 41 14
  pure ⟨BitVec.ofNat 6 cc, tnCode, fn, mn, BitVec.ofNat 10 mcc, BitVec.ofNat 14 mnc⟩

/-- The writes of `DISSECT_BSCH`, in order (45 R283). -/
def commitBsch (f : BschFields) (b : Bits) (s : State) : State :=
  let s := s.setCell { s.cell with
    mcc := f.mcc, mnc := f.mnc, colourCode := f.cc
    scramblingCode := scrambleInit s.params f.mcc f.mnc f.cc }
  let s := timeSet f.tnCode f.fn f.mn s
  let s := s.log (.macSync s.burst.type f.cc (f.tnCode + 1) f.fn f.mn f.mcc f.mnc)
  s.emit .bsch (extract b 31 29)

/-- `DISSECT_BSCH`; a BSCH under 60 bits is dropped (45 R283). -/
def dissectBsch (b : Bits) (s : State) : Except OutOfRange State :=
  if b.length < bschMin then pure (s.log (.shortPdu .bsch b.length))
  else do
    let f ← parseBsch b
    pure (commitBsch f b s)

/-- The downlink frequency in Hz (45 R284). -/
def downlinkFrequency (band mainCarrier offset : Nat) : Int :=
  band * 100000000 + mainCarrier * 25000 + duplexOffset offset

/-- The reads of `DISSECT_SYSINFO` and the frequency they give (45 R284, 30 R96). -/
def parseSysinfo (p : Bits) : Except OutOfRange Int := do
  let mc ← getValue p 4 12
  let band ← getValue p 16 4
  let off ← getValue p 20 2
  let _ ← consumeAll p 22 [3, 1, 2, 3, 4, 4, 4, 1, 16, 2, 20]
  pure (downlinkFrequency band mc off)

/-- `DISSECT_SYSINFO`; a SYSINFO under 82 bits is dropped (45 R284). -/
def dissectSysinfo (p : Bits) (ch : SigChannel) (s : State) : Except OutOfRange (UnitResult × State) :=
  if p.length < sysinfoMin then pure (⟨.short, p, none⟩, s.log (.shortPdu .sysinfo p.length))
  else do
    let f ← parseSysinfo p
    pure (⟨.sysinfo, p, some 124⟩,
      (s.setCell { s.cell with downlinkFreqHz := f }).emit ch.toLogical (extract p 82 42))

/-! ### MAC-RESOURCE -/

/-- What the reads of a MAC-RESOURCE give: a NULL PDU, or the fields and the header length (45 R286). -/
inductive ResourceHeader where
  | null (pdu : Bits)
  | addressed (pdu : Bits) (enc : BitVec 2) (li : BitVec 6) (addrType : Nat) (a : MacAddress) (pos : Nat)
  deriving DecidableEq, Repr

/-- The reads of `DISSECT_MAC_RESOURCE` (45 R286, 30 R89). -/
def parseMacResource (keep : Bool) (fn : Nat) (p : Bits) : Except OutOfRange ResourceHeader := do
  let fill ← getValue p 2 1
  let p := strippedIf keep fill p
  let _ ← consume p 3 1
  let enc ← getValue p 4 2
  let _ ← consume p 6 1
  let li ← getValue p 7 6
  let addrType ← getValue p 13 3
  if addrType = 0 then pure (.null p)
  else do
    let (a, pos) ← parseAddress p 16 addrType
    let pos ← consumeOptional p pos 4
    let pos ← consumeOptional p pos 8
    let pos ← parseChanAllocFlag fn p pos
    pure (.addressed p (BitVec.ofNat 2 enc) (BitVec.ofNat 6 li) addrType a pos)

/-- The address writes of a MAC-RESOURCE (45 R286). -/
def commitAddress (a : MacAddress) (enc : BitVec 2) (addrType : Nat) (s : State) : State :=
  let s := s.setAddr { a with encryptionMode := enc }
  if addrType = 0b110 then s.setMarkerEncryption a.usageMarker enc else s

/-- What a committed MAC-RESOURCE does by its length indication (45 R286). -/
def commitLength (p : Bits) (ch : SigChannel) (li : BitVec 6) (pos : Nat) (s : State) : UnitResult × State :=
  if li = 0b111111 then
    (⟨.fragStart, p, none⟩, fragAppend (extract p pos (p.length - pos)) s.addr (fragStart s.addr s.time s))
  else if decodeLength li = 0 then (⟨.reservedLength, p, none⟩, s.log (.reservedLength li))
  else
    let s := if li = 0b111110 then setStolen s true else s
    (⟨.resource, p, some (decodeLength li * 8)⟩, s.emit ch.toLogical (extract p pos (decodeLength li * 8 - pos)))

/-- `DISSECT_MAC_RESOURCE` (45 R286). -/
def dissectMacResource (p : Bits) (ch : SigChannel) (s : State) : Except OutOfRange (UnitResult × State) := do
  match ← parseMacResource s.keepFillBits s.time.fn p with
  | .null p => pure (⟨.null, p, some (-1)⟩, s)
  | .addressed p enc li addrType a pos => pure (commitLength p ch li pos (commitAddress a enc addrType s))

/-! ### Fragments, broadcast blocks and the rest of the map -/

/-- `DISSECT_MAC_FRAG` (45 R290). -/
def dissectMacFrag (p : Bits) (s : State) : Except OutOfRange (UnitResult × State) := do
  let fill ← getValue p 3 1
  let p := strippedIf s.keepFillBits fill p
  pure (⟨.frag, p, none⟩, fragAppend (extract p 4 (p.length - 4)) s.addr s)

/-- The commit of an accepted MAC-END (45 R291). -/
def commitMacEnd (p : Bits) (ch : SigChannel) (pos : Nat) (s : State) : State :=
  let s := fragAppend (extract p pos (p.length - pos)) s.addr s
  let s := s.emit ch.toLogical (fragSdu s)
  let s := fragStop s
  s.setMarkerEncryption s.addr.usageMarker s.addr.encryptionMode

/-- `DISSECT_MAC_END` (45 R291). -/
def dissectMacEnd (p : Bits) (ch : SigChannel) (s : State) : Except OutOfRange (UnitResult × State) := do
  let fill ← getValue p 3 1
  let p := strippedIf s.keepFillBits fill p
  let _ ← consume p 4 1
  let li ← getValue p 5 6
  if li < 0b000010 ∨ li > 0b100010 then pure (⟨.dropped, p, none⟩, s.log (.endLength (BitVec.ofNat 6 li)))
  else do
    let pos ← consumeOptional p 11 8
    let pos ← parseChanAllocFlag s.time.fn p pos
    pure (⟨.fragEnd, p, none⟩, commitMacEnd p ch pos s)

/-- `DISSECT_MAC_D_BLCK`, on SCH_F only; the fill-bit flag is bit 3 (45 R292, 90 C15). -/
def dissectMacDBlck (p : Bits) (s : State) : Except OutOfRange (UnitResult × State) := do
  let fill ← getValue p 3 1
  let p := strippedIf s.keepFillBits fill p
  let enc ← getValue p 4 2
  let el ← getValue p 6 10
  let _ ← consume p 16 1
  let pos ← consumeOptional p 17 8
  let s := s.setAddr { s.addr with encryptionMode := BitVec.ofNat 2 enc, eventLabel := BitVec.ofNat 10 el }
  pure (⟨.dBlck, p, none⟩, s.emit .schF (extract p pos (p.length - pos)))

/-- `DISSECT_ACCESS_DEFINE` (45 R293). -/
def dissectAccessDefine (p : Bits) (s : State) : UnitResult × State := (⟨.accessDefine, p, none⟩, s)

/-- `IGNORE_RESERVED` (45 R296). -/
def ignoreReserved (p : Bits) (why : ReservedWhy) (s : State) : UnitResult × State :=
  (⟨.ignored, p, none⟩, s.log (.reservedPdu why))

/-- `DISSECT_ONE`: the PDU-type routing (45 R281, 30 R101). -/
def dissectOne (p : Bits) (ch : SigChannel) (s : State) : Except OutOfRange (UnitResult × State) := do
  let t ← getValue p 0 2
  if t = 0b00 then dissectMacResource p ch s
  else if t = 0b01 then do
    let sub ← getValue p 2 1
    if sub = 0 then dissectMacFrag p s else dissectMacEnd p ch s
  else if t = 0b10 then do
    let sub ← getValue p 2 2
    if sub = 0b00 then dissectSysinfo p ch s
    else if sub = 0b01 then pure (dissectAccessDefine p s)
    else pure (ignoreReserved p (.subtype (BitVec.ofNat 2 t) (BitVec.ofNat 2 sub)) s)
  else if ch = .schF then dissectMacDBlck p s
  else pure (ignoreReserved p (.channel (BitVec.ofNat 2 t) ch) s)

/-! ### The dissociation loop and the entry -/

/-- `DISSOC_MAX` (00 R6). -/
def dissocMax : Nat := 32

/-- Whether a unit's outcome lets the loop go on: a MAC-RESOURCE that leaves at least `DISSOC_MIN_REM = 40` bits; the offset of the next PDU (45 R294). -/
def restartOffset (r : UnitResult) : Option Nat :=
  match r.kind, r.sizeInMac with
  | .resource, some n => if (r.pdu.length : Int) - n ≥ 40 then some n.toNat else none
  | _, _ => none

/-- `Burst.dissoc_count <- Burst.dissoc_count + 1` (45 R294). -/
def countRestart (s : State) : State := s.setBurst { s.burst with dissocCount := s.burst.dissocCount + 1 }

/-- The loop with `budget` restarts left; a restart the budget does not allow is the overflow (45 R294). -/
def dissociate (ch : SigChannel) : Nat → Bits → State → State
  | budget, p, s =>
    match dissectOne p ch s with
    | .error e => abandonUnit e s
    | .ok (r, s') =>
      match restartOffset r with
      | none => s'
      | some off =>
        match budget with
        | 0 => s'.log (.dissocOverflow ch)
        | budget + 1 => dissociate ch budget (fromOffset r.pdu off none) (countRestart s')

/-- `DISSOCIATION_LOOP`: the restarts left are `DISSOC_MAX` less those of this burst (45 R294). -/
def dissociationLoop (blk : Bits) (ch : SigChannel) (s : State) : State :=
  dissociate ch (dissocMax - s.burst.dissocCount) blk s

/-- `EMIT_TCH_S` (45 R295). -/
def emitTchS (x : Bits) (s : State) : State := s.emit .tchS x

/-- `UMAC_DISPATCH` (45 R280). -/
def umacDispatch (blk : Bits) (ch : LogicalChannel) (s : State) : State :=
  match ch with
  | .aach => caught s (dissectAach blk s)
  | .bsch => caught s (dissectBsch blk s)
  | .tchS => emitTchS blk s
  | .schF => dissociationLoop blk .schF s
  | .schHd => dissociationLoop blk .schHd s
  | .stch => dissociationLoop blk .stch s
  | .bnch => dissociationLoop blk .bnch s
  | .tch => s.log (.blockIgnored (.channel .tch))
  | .blch => s.log (.blockIgnored (.channel .blch))
  | .unknown => s.log (.blockIgnored (.channel .unknown))

/-- `HANDOFF`: the channel register, then the dispatch (44 R247); also the test entry `DISSECT` (30 R115). -/
def handoff (blk : Bits) (ch : LogicalChannel) (s : State) : State :=
  umacDispatch blk ch (s.setLogicalChannel ch)

/-! ### The operations -/

/-- A unit without a result record, as an operation of its own. -/
def answerPlain (s : State) : Except OutOfRange State → Answer
  | .ok s' => answer s' .none
  | .error e => answer (abandonUnit e s) (.raised e)

/-- `UMAC_DISPATCH` as an operation (45 R280). -/
def execUmacDispatch (blk : Bits) (ch : LogicalChannel) (s : State) : Answer := answer (umacDispatch blk ch s) .none

/-- `DISSECT_AACH` as an operation (45 R282). -/
def execDissectAach (a : Bits) (s : State) : Answer := answerPlain s (dissectAach a s)

/-- `DISSECT_BSCH` as an operation (45 R283). -/
def execDissectBsch (b : Bits) (s : State) : Answer := answerPlain s (dissectBsch b s)

/-- `DISSECT_SYSINFO` as an operation (45 R284). -/
def execDissectSysinfo (p : Bits) (ch : SigChannel) (s : State) : Answer := answerUnit s (dissectSysinfo p ch s)

/-- `DECODE_LENGTH` as an operation (45 R285). -/
def execDecodeLength (li : BitVec 6) (s : State) : Answer := answer s (.number (decodeLength li))

/-- `DISSECT_MAC_RESOURCE` as an operation (45 R286). -/
def execDissectMacResource (p : Bits) (ch : SigChannel) (s : State) : Answer := answerUnit s (dissectMacResource p ch s)

/-- `STRIP_FILL_BITS` as an operation (45 R287). -/
def execStripFillBits (p : Bits) (s : State) : Answer := answer s (.bits (stripFillBits p))

/-- What `PARSE_ADDRESS` returns as an operation of its own. -/
def addressResult : Except OutOfRange (MacAddress × Nat) → Result
  | .ok (a, pos) => .address a pos
  | .error e => .raised e

/-- `PARSE_ADDRESS` as an operation, for an address type other than 000 (45 R288). -/
def execParseAddress (p : Bits) (pos : Nat) (addrType : BitVec 3) (s : State) : Answer :=
  inDomain (addrType ≠ 0) "PARSE_ADDRESS" (answer s (addressResult (parseAddress p pos addrType.toNat)))

/-- What `PARSE_CHAN_ALLOC` returns as an operation of its own. -/
def positionResult : Except OutOfRange Nat → Result
  | .ok pos => .position pos
  | .error e => .raised e

/-- `PARSE_CHAN_ALLOC` as an operation (45 R289). -/
def execParseChanAlloc (p : Bits) (pos : Nat) (s : State) : Answer :=
  answer s (positionResult (parseChanAlloc s.time.fn p pos))

/-- `DISSECT_MAC_FRAG` as an operation (45 R290). -/
def execDissectMacFrag (p : Bits) (_ch : SigChannel) (s : State) : Answer := answerUnit s (dissectMacFrag p s)

/-- `DISSECT_MAC_END` as an operation (45 R291). -/
def execDissectMacEnd (p : Bits) (ch : SigChannel) (s : State) : Answer := answerUnit s (dissectMacEnd p ch s)

/-- `DISSECT_MAC_D_BLCK` as an operation (45 R292). -/
def execDissectMacDBlck (p : Bits) (s : State) : Answer := answerUnit s (dissectMacDBlck p s)

/-- `DISSECT_ACCESS_DEFINE` as an operation (45 R293). -/
def execDissectAccessDefine (p : Bits) (_ch : SigChannel) (s : State) : Answer := answerUnit s (.ok (dissectAccessDefine p s))

/-- `DISSOCIATION_LOOP` as an operation (45 R294). -/
def execDissociationLoop (blk : Bits) (ch : SigChannel) (s : State) : Answer := answer (dissociationLoop blk ch s) .none

/-- `EMIT_TCH_S` as an operation (45 R295). -/
def execEmitTchS (x : Bits) (s : State) : Answer := answer (emitTchS x s) .none

/-- `IGNORE_RESERVED` as an operation (45 R296). -/
def execIgnoreReserved (p : Bits) (_ch : SigChannel) (why : ReservedWhy) (s : State) : Answer :=
  answerUnit s (.ok (ignoreReserved p why s))

end Sys2Proof.Machine
end

