-- ==== Sys2Proof/Machine/LowerMac.lean ====
section
/-! DEFINITION. The lower MAC: LMAC_BURST, LMAC_SB, LMAC_NDB, LMAC_NDB_SF, FEC_DECODE_BLOCK, AACH_DECODE_BLOCK (44 R240 to R249). -/

namespace Sys2Proof.Machine

/-- The FEC chain up to the Viterbi decoder: descramble, deinterleave, depuncture, decode (44 R246). -/
def fecBits (p : Params) (x : Bits) (key : BitVec 32) (size : BlockSize) : Bits :=
  viterbiDecode p (depuncture p.punct (deinterleave size (descramble p x key)))

/-- `FEC_DECODE_BLOCK`: the kept bits, or `FAIL` with its log record (44 R246). -/
def fecDecodeBlock (x : Bits) (key : BitVec 32) (size : BlockSize) (s : State) : Option Bits × State :=
  let d := fecBits s.params x key size
  if crc16Check s.params.crcXorout (d.slice 0 (blockCrc size)) then (some (resize d (blockKeep size)), s)
  else (none, s.log (.fecFail (blockK size) (blockCrc size)))

/-- `AACH_DECODE_BLOCK` (44 R248). -/
def aachDecodeBlock (p : Params) (x : Bits) (key : BitVec 32) : Bits := rmDecode (descramble p x key)

/-- Decode a block and hand it over where its CRC passes (44 R241, R242, R244). -/
def decodeAndHandoff (x : Bits) (key : BitVec 32) (size : BlockSize) (ch : LogicalChannel) (s : State) : State :=
  match fecDecodeBlock x key size s with
  | (some r, s) => handoff r ch s
  | (none, s) => s

/-- Decode an AACH block with the cell's code and hand it over (44 R245, R248). -/
def aachHandoff (x : Bits) (s : State) : State :=
  handoff (aachDecodeBlock s.params x s.cell.scramblingCode) .aach s

/-- `LMAC_SB`: BSCH, then AACH, then BKN2 (44 R241). -/
def lmacSb (w : Bits) (s : State) : State :=
  let s := decodeAndHandoff (w.slice 94 214) 3 .k120 .bsch s
  let s := aachHandoff (w.slice 252 282) s
  decodeAndHandoff (w.slice 282 498) s.cell.scramblingCode .k216 .schHd s

/-- The BBK of an NDB or NDB_SF (30 R82). -/
def ndbBbk (w : Bits) : Bits := append (w.slice 230 244) (w.slice 266 282)

/-- `LMAC_NDB`: the AACH, then TCH_S raw or SCH_F (44 R242). -/
def lmacNdb (w : Bits) (s : State) : State :=
  let s := aachHandoff (ndbBbk w) s
  let x := append (w.slice 14 230) (w.slice 282 498)
  if trafficNow s then handoff (descramble s.params x s.cell.scramblingCode) .tchS s
  else decodeAndHandoff x s.cell.scramblingCode .k432 .schF s

/-- BKN2 of an NDB_SF, once BKN1 has been dissected; `traffic` is the mode read before BKN1 (44 R244). -/
def lmacBkn2 (w : Bits) (traffic : Bool) (s : State) : State :=
  if traffic && !s.mac.secondSlotStolen then s.log (.blockIgnored .bkn2)
  else
    let ch := if traffic then LogicalChannel.stch else if bnchSlot s.time then .bnch else .schHd
    decodeAndHandoff (w.slice 282 498) s.cell.scramblingCode .k216 ch s

/-- `LMAC_NDB_SF`: the AACH, then the two half slots (44 R244). -/
def lmacNdbSf (w : Bits) (s : State) : State :=
  let s := aachHandoff (ndbBbk w) s
  let traffic := trafficMode s
  let s := decodeAndHandoff (w.slice 14 230) s.cell.scramblingCode .k216 (if traffic then .stch else .schHd) s
  lmacBkn2 w traffic s

/-- The per-burst state cleared at the start of every processed burst (44 R240). -/
def clearBurst (s : State) : State :=
  (setStolen s false).setBurst { s.burst with dissocCount := 0 }

/-- `LMAC_BURST` (44 R240). -/
def lmacBurst (w : Bits) (type : BurstClass) (s : State) : State :=
  match type with
  | .sb => lmacSb w (clearBurst s)
  | .ndb => lmacNdb w (clearBurst s)
  | .ndbSf => lmacNdbSf w (clearBurst s)

/-- `LMAC_BURST` as an operation, on a 510-bit window (44 R240). -/
def execLmacBurst (w : Bits) (type : BurstClass) (s : State) : Answer :=
  inDomain (w.length == burstLen) "LMAC_BURST" (answer (lmacBurst w type s) .none)

/-- `LMAC_SB` as an operation, on a 510-bit window (44 R241). -/
def execLmacSb (w : Bits) (s : State) : Answer :=
  inDomain (w.length == burstLen) "LMAC_SB" (answer (lmacSb w s) .none)

/-- `LMAC_NDB` as an operation, on a 510-bit window (44 R242). -/
def execLmacNdb (w : Bits) (s : State) : Answer :=
  inDomain (w.length == burstLen) "LMAC_NDB" (answer (lmacNdb w s) .none)

/-- `LMAC_NDB_SF` as an operation, on a 510-bit window (44 R244). -/
def execLmacNdbSf (w : Bits) (s : State) : Answer :=
  inDomain (w.length == burstLen) "LMAC_NDB_SF" (answer (lmacNdbSf w s) .none)

/-- What `FEC_DECODE_BLOCK` returns: the bits or `FAIL`. -/
def fecResult : Option Bits → Result
  | some r => .bits r
  | none => .fail

/-- `FEC_DECODE_BLOCK` as an operation, on exactly `K` bits (44 R246, 93 U5). -/
def execFecDecodeBlock (x : Bits) (key : BitVec 32) (size : BlockSize) (s : State) : Answer :=
  inDomain (x.length == blockK size) "FEC_DECODE_BLOCK"
    (answer (fecDecodeBlock x key size s).2 (fecResult (fecDecodeBlock x key size s).1))

/-- `AACH_DECODE_BLOCK` as an operation, on exactly 30 bits (44 R248, 93 U5). -/
def execAachDecodeBlock (x : Bits) (key : BitVec 32) (s : State) : Answer :=
  inDomain (x.length == 30) "AACH_DECODE_BLOCK" (answer s (.bits (aachDecodeBlock s.params x key)))

end Sys2Proof.Machine
end

