-- ==== Sys2Proof/Machine/BurstSync.lean ====
section
/-! DEFINITION. The burst synchronizer: RX_SYMBOL, SYNC_MATCH, PROCESS_BURST (43 R220 to R226). -/

namespace Sys2Proof.Machine

/-- `SYNC_MATCH(w)`: whether the window matches, and the state with a match's writes (43 R222). -/
def syncMatch (w : Bits) (s : State) : Bool × State :=
  if windowMatches s.params w then (true, setSynchronized s) else (false, s)

/-- `d_sync` (43 R225). -/
def dSync (p : Params) (w : Bits) : Nat := hamming (w.slice 214 252) (bvToBits p.tsSync)

/-- `d_n1` (43 R225). -/
def dN1 (p : Params) (w : Bits) : Nat := hamming (w.slice 244 266) (bvToBits p.tsN1)

/-- `d_n2` (43 R225). -/
def dN2 (p : Params) (w : Bits) : Nat := hamming (w.slice 244 266) (bvToBits p.tsN2)

/-- `d_min` (43 R225). -/
def dMin (p : Params) (w : Bits) : Nat := min (dSync p w) (min (dN1 p w) (dN2 p w))

/-- The class of a window: the first of SYNC, N1, N2 that reaches the minimum (43 R225, 30 R100). -/
def burstClass (p : Params) (w : Bits) : BurstClass :=
  if dSync p w = dMin p w then .sb else if dN1 p w = dMin p w then .ndb else .ndbSf

/-- `PROCESS_BURST(w)`, with `ACCEPT_MAX = 5` (43 R225). -/
def processBurst (w : Bits) (s : State) : State :=
  if dMin s.params w > 5 then s.log (.burstReject (dSync s.params w) (dN1 s.params w) (dN2 s.params w))
  else lmacBurst w (burstClass s.params w) (s.setBurst { s.burst with type := burstClass s.params w })

/-- `Sync.buffer <- v` (43 R220). -/
def setBuffer (s : State) (v : Bits) : State := s.setSync { s.sync with buffer := v }

/-- Steps 3 to 7 of `RX_SYMBOL`, on a full window (43 R220). -/
def rxFull (s : State) : Bool × State :=
  let (matched, s) := syncMatch s.sync.buffer s
  let s :=
    if matched || graceDue s then setBuffer (processBurst s.sync.buffer (timeInc s)) []
    else setBuffer s (s.sync.buffer.slice 1 510)
  (matched, counterTick s)

/-- `RX_SYMBOL(b)`: `frame_found`, and the state after the step (43 R220). -/
def rxSymbol (b : Bool) (s : State) : Bool × State :=
  let s := setBuffer s (append s.sync.buffer [b])
  if s.sync.buffer.length < burstLen then (false, if s.params.syncDecOnPartial then counterTick s else s)
  else rxFull s

/-- `RX_SYMBOL` as an operation: the step's result signal is `frame_found` (43 R220, 47 R380). -/
def execRxSymbol (b : Bool) (s : State) : Answer :=
  answer ((rxSymbol b s).2.setFrameFound (rxSymbol b s).1) (.flag (rxSymbol b s).1)

/-- `SYNC_MATCH` as an operation, on a 510-bit window (43 R222). -/
def execSyncMatch (w : Bits) (s : State) : Answer :=
  inDomain (w.length == burstLen) "SYNC_MATCH" (answer (syncMatch w s).2 (.flag (syncMatch w s).1))

/-- `PROCESS_BURST` as an operation, on a 510-bit window (43 R225). -/
def execProcessBurst (w : Bits) (s : State) : Answer :=
  inDomain (w.length == burstLen) "PROCESS_BURST" (answer (processBurst w s) .none)

end Sys2Proof.Machine
end

