-- ==== Sys2Proof/Machine/Interfaces.lean ====
section
/-! DEFINITION. The interfaces: INPUT_UNPACK, EMIT, STOP, IO_ERROR, RESET (47 R380 to R387). -/

namespace Sys2Proof.Machine

/-- `INPUT_UNPACK(byte)` (47 R382). -/
def inputUnpack (pack : Bool) (byte : Byte) : Bits :=
  if pack then (List.range 8).map byte.getLsbD else [byte.getLsbD 0]

/-- `STOP` (47 R384). -/
def stopBlock (s : State) : State := s.setHalted true

/-- `IO_ERROR`: the log record, then as `STOP` (47 R385). -/
def ioError (s : State) : State := (s.log .ioError).setHalted true

/-- `RESET`: every state element at its reset value, the configuration inputs sampled, both output streams left as they are; the parameters are the machine's own, and input not yet taken stays the environment's, but for the control inputs, which reset overrides (47 R386, 60 R405, 70 R440). -/
def resetBlock (s : State) : State :=
  { State.reset with
    keepFillBits := s.env.keepFillBitsLevel
    packMode := s.env.packModeLevel
    params := s.params
    output := s.output
    env := { s.env with resetPending := false, stopPending := false, ioErrorPending := false }
    ops := s.ops }

/-- `INPUT_UNPACK` as an operation (47 R382). -/
def execInputUnpack (byte : Byte) (s : State) : Answer := answer s (.bits (inputUnpack s.packMode byte))

/-- `EMIT` as an operation (47 R383). -/
def execEmit (ch : LogicalChannel) (sdu : Bits) (s : State) : Answer := answer (s.emit ch sdu) .none

/-- `STOP` as an operation (47 R384). -/
def execStop (s : State) : Answer := answer (stopBlock s) .none

/-- `IO_ERROR` as an operation (47 R385). -/
def execIoError (s : State) : Answer := answer (ioError s) .none

/-- `RESET` as an operation (47 R386). -/
def execReset (s : State) : Answer := answer (resetBlock s) .none

end Sys2Proof.Machine
end

