-- ==== Sys2Proof/Machine/Selectors.lean ====
section
/-! DEFINITION. The selector rows of the opcode table (30 R100 to R104): each row as an operation, on the smallest thing of the block that its code selects a treatment for (log entry 17). -/

namespace Sys2Proof.Machine

/-! ### PDU types (30 R101): the dissection of a working PDU that begins with the row's bits -/

/-- The working PDU a PDU-type row stands in: its four bits, then the rest. -/
def pduOf (code : BitVec 4) (rest : Bits) : Bits := bvToBits code ++ rest

/-- One dissection unit on that PDU, routed as the block routes it (45 R281). -/
def dissectRow (code : BitVec 4) (rest : Bits) (ch : SigChannel) (s : State) : Answer :=
  answerUnit s (dissectOne (pduOf code rest) ch s)

/-- `MAC_RESOURCE` (30 R101, 45 R286). -/
def execMacResource (lo : BitVec 2) (rest : Bits) (ch : SigChannel) (s : State) : Answer := dissectRow (0b00#2 ++ lo) rest ch s

/-- `MAC_FRAG` (30 R101, 45 R290). -/
def execMacFrag (lo : BitVec 1) (rest : Bits) (ch : SigChannel) (s : State) : Answer := dissectRow (0b010#3 ++ lo) rest ch s

/-- `MAC_END` (30 R101, 45 R291). -/
def execMacEnd (lo : BitVec 1) (rest : Bits) (ch : SigChannel) (s : State) : Answer := dissectRow (0b011#3 ++ lo) rest ch s

/-- `SYSINFO` (30 R101, 45 R284). -/
def execSysinfo (rest : Bits) (ch : SigChannel) (s : State) : Answer := dissectRow 0b1000#4 rest ch s

/-- `ACCESS_DEFINE` (30 R101, 45 R293). -/
def execAccessDefine (rest : Bits) (ch : SigChannel) (s : State) : Answer := dissectRow 0b1001#4 rest ch s

/-- `RESERVED_10_1X` (30 R101, 45 R296). -/
def execReserved10x (lo : BitVec 1) (rest : Bits) (ch : SigChannel) (s : State) : Answer := dissectRow (0b101#3 ++ lo) rest ch s

/-- `MAC_D_BLCK`, the type 11 on SCH_F (30 R101, 45 R292). -/
def execMacDBlck (lo : BitVec 2) (rest : Bits) (s : State) : Answer := dissectRow (0b11#2 ++ lo) rest .schF s

/-- `RESERVED_11`, the type 11 on the other channels (30 R101, 45 R296). -/
def execReserved11 (lo : BitVec 2) (rest : Bits) (ch : SigChannel) (s : State) : Answer := dissectRow (0b11#2 ++ lo) rest ch s

/-! ### Length indications (30 R102): the octets the code stands for -/

/-- What `DECODE_LENGTH` gives for a code (45 R285). -/
def lengthRow (li : BitVec 6) (s : State) : Answer := answer s (.number (decodeLength li))

/-- `LI_RESERVED_000000` (30 R102). -/
def execLiReserved0 (s : State) : Answer := lengthRow 0b000000#6 s

/-- `LI_OCTETS_1` (30 R102). -/
def execLiOctets1 (s : State) : Answer := lengthRow 0b000001#6 s

/-- `LI_OCTETS_2_3` (30 R102). -/
def execLiOctets2to3 (lo : BitVec 1) (s : State) : Answer := lengthRow (0b00001#5 ++ lo) s

/-- `LI_OCTETS_4_7` (30 R102). -/
def execLiOctets4to7 (lo : BitVec 2) (s : State) : Answer := lengthRow (0b0001#4 ++ lo) s

/-- `LI_OCTETS_8_15` (30 R102). -/
def execLiOctets8to15 (lo : BitVec 3) (s : State) : Answer := lengthRow (0b001#3 ++ lo) s

/-- `LI_OCTETS_16_17` (30 R102). -/
def execLiOctets16to17 (lo : BitVec 1) (s : State) : Answer := lengthRow (0b01000#5 ++ lo) s

/-- `LI_OCTETS_18` (30 R102). -/
def execLiOctets18 (s : State) : Answer := lengthRow 0b010010#6 s

/-- `LI_OCTETS_19` (30 R102). -/
def execLiOctets19 (s : State) : Answer := lengthRow 0b010011#6 s

/-- `LI_OCTETS_20_23` (30 R102). -/
def execLiOctets20to23 (lo : BitVec 2) (s : State) : Answer := lengthRow (0b0101#4 ++ lo) s

/-- `LI_OCTETS_24_31` (30 R102). -/
def execLiOctets24to31 (lo : BitVec 3) (s : State) : Answer := lengthRow (0b011#3 ++ lo) s

/-- `LI_OCTETS_32_47` (30 R102). -/
def execLiOctets32to47 (lo : BitVec 4) (s : State) : Answer := lengthRow (0b10#2 ++ lo) s

/-- `LI_OCTETS_48_55` (30 R102). -/
def execLiOctets48to55 (lo : BitVec 3) (s : State) : Answer := lengthRow (0b110#3 ++ lo) s

/-- `LI_OCTETS_56_57` (30 R102). -/
def execLiOctets56to57 (lo : BitVec 1) (s : State) : Answer := lengthRow (0b11100#5 ++ lo) s

/-- `LI_OCTETS_58` (30 R102). -/
def execLiOctets58 (s : State) : Answer := lengthRow 0b111010#6 s

/-- `LI_RESERVED_111011` (30 R102). -/
def execLiReserved59 (s : State) : Answer := lengthRow 0b111011#6 s

/-- `LI_RESERVED_11110X` (30 R102). -/
def execLiReserved60to61 (lo : BitVec 1) (s : State) : Answer := lengthRow (0b11110#5 ++ lo) s

/-- `LI_SECOND_HALF_STOLEN` (30 R102). -/
def execLiSecondHalfStolen (s : State) : Answer := lengthRow 0b111110#6 s

/-- `LI_START_FRAGMENTING` (30 R102). -/
def execLiStartFragmenting (s : State) : Answer := lengthRow 0b111111#6 s

/-! ### Address types (30 R103): the address fields the type carries -/

/-- `AT_NULL`: a NULL PDU, with no further field and no state written; its length is -1 (45 R286). -/
def execAtNull (p : Bits) (s : State) : Answer := answer s (.unit ⟨.null, p, some (-1)⟩)

/-- The address fields of the given type at a position (45 R288). -/
def addressRow (addrType : Nat) (p : Bits) (pos : Nat) (s : State) : Answer :=
  answer s (addressResult (parseAddress p pos addrType))

/-- `AT_SSI` (30 R103). -/
def execAtSsi (p : Bits) (pos : Nat) (s : State) : Answer := addressRow 1 p pos s

/-- `AT_EVENT_LABEL` (30 R103). -/
def execAtEventLabel (p : Bits) (pos : Nat) (s : State) : Answer := addressRow 2 p pos s

/-- `AT_USSI` (30 R103). -/
def execAtUssi (p : Bits) (pos : Nat) (s : State) : Answer := addressRow 3 p pos s

/-- `AT_SMI` (30 R103). -/
def execAtSmi (p : Bits) (pos : Nat) (s : State) : Answer := addressRow 4 p pos s

/-- `AT_SSI_EVENT_LABEL` (30 R103). -/
def execAtSsiEventLabel (p : Bits) (pos : Nat) (s : State) : Answer := addressRow 5 p pos s

/-- `AT_SSI_USAGE_MARKER` (30 R103). -/
def execAtSsiUsageMarker (p : Bits) (pos : Nat) (s : State) : Answer := addressRow 6 p pos s

/-- `AT_SMI_EVENT_LABEL` (30 R103). -/
def execAtSmiEventLabel (p : Bits) (pos : Nat) (s : State) : Answer := addressRow 7 p pos s

/-! ### AACH usages (30 R104): the dissection of the 14-bit block -/

/-- The decoded AACH block with a header, a first field, and the six bits no rule reads (30 R85). -/
def aachBlock (header : BitVec 2) (field1 tail : BitVec 6) : Bits :=
  bvToBits header ++ bvToBits field1 ++ bvToBits tail

/-- `DISSECT_AACH` on that block; whether the frame is 18 is the state's (45 R282). -/
def aachRow (header : BitVec 2) (field1 tail : BitVec 6) (s : State) : Answer :=
  answerPlain s (dissectAach (aachBlock header field1 tail) s)

/-- `AACH_FRAME18` (30 R104). -/
def execAachFrame18 (header : BitVec 2) (field1 tail : BitVec 6) (s : State) : Answer := aachRow header field1 tail s

/-- `AACH_HEADER_00` (30 R104). -/
def execAachHeader00 (field1 tail : BitVec 6) (s : State) : Answer := aachRow 0b00#2 field1 tail s

/-- `AACH_UNALLOCATED` (30 R104). -/
def execAachUnallocated (header : BitVec 2) (tail : BitVec 6) (s : State) : Answer := aachRow header 0#6 tail s

/-- `AACH_ASSIGNED` (30 R104). -/
def execAachAssigned (header : BitVec 2) (tail : BitVec 6) (s : State) : Answer := aachRow header 1#6 tail s

/-- `AACH_COMMON` (30 R104). -/
def execAachCommon (header : BitVec 2) (tail : BitVec 6) (s : State) : Answer := aachRow header 2#6 tail s

/-- `AACH_RESERVED` (30 R104). -/
def execAachReserved (header : BitVec 2) (tail : BitVec 6) (s : State) : Answer := aachRow header 3#6 tail s

/-- `AACH_TRAFFIC` (30 R104). -/
def execAachTraffic (header : BitVec 2) (field1 tail : BitVec 6) (s : State) : Answer := aachRow header field1 tail s

/-! ### Burst classes (30 R100): a window with the class's training sequence in place -/

/-- `PROCESS_BURST` on a 510-bit window with a training sequence at position `at_` (43 R225). -/
def burstRow (row : String) (at_ : Nat) (head ts tail : Bits) (s : State) : Answer :=
  inDomain (head.length == at_ && (head ++ ts ++ tail).length == burstLen) row
    (answer (processBurst (head ++ ts ++ tail) s) .none)

/-- `BURST_SB`: the sequence at its place is the machine's `TS_SYNC` (30 R100). -/
def execBurstSb (head tail : Bits) (s : State) : Answer := burstRow "BURST_SB" 214 head (bvToBits s.params.tsSync) tail s

/-- `BURST_NDB`: the sequence at its place is the machine's `TS_N1` (30 R100). -/
def execBurstNdb (head tail : Bits) (s : State) : Answer := burstRow "BURST_NDB" 244 head (bvToBits s.params.tsN1) tail s

/-- `BURST_NDB_SF`: the sequence at its place is the machine's `TS_N2` (30 R100). -/
def execBurstNdbSf (head tail : Bits) (s : State) : Answer := burstRow "BURST_NDB_SF" 244 head (bvToBits s.params.tsN2) tail s

end Sys2Proof.Machine
end

