-- ==== Sys2Proof/Machine/VectorOps.lean ====
section
/-! DEFINITION. The bit-vector family: BV_SIZE, BV_GET_VALUE, BV_EXTRACT, BV_APPEND, BV_FROM_OFFSET, BV_RESIZE, HAMMING (40 R140 to R147). -/

namespace Sys2Proof.Machine

/-- `BV_SIZE` (40 R140). -/
def execBvSize (v : VecOperand) (s : State) : Answer := answer s (.number (vecSize (readVec s v)))

/-- What a field read returns as an operation of its own. -/
def readResult : Except OutOfRange Nat → Result
  | .ok x => .number x
  | .error e => .raised e

/-- `BV_GET_VALUE`: `n > 64` is no operation of the block; a read past the end raises `OutOfRange` (40 R141, 20 R66). -/
def execBvGetValue (v : VecOperand) (pos n : Nat) (s : State) : Answer :=
  inDomain (n ≤ 64) "BV_GET_VALUE" (answer s (readResult (getValue (readVec s v) pos n)))

/-- `BV_EXTRACT` (40 R142). -/
def execBvExtract (v : VecOperand) (pos n : Int) (s : State) : Answer :=
  answer s (.bits (extract (readVec s v) pos n))

/-- `BV_APPEND`: the target is replaced by the concatenation of the old values (40 R143). -/
def execBvAppend (u v : VecOperand) (s : State) : Answer :=
  answer (writeVec s u (append (readVec s u) (readVec s v))) (.bits (append (readVec s u) (readVec s v)))

/-- `BV_FROM_OFFSET` (40 R144). -/
def execBvFromOffset (v : VecOperand) (offset : Nat) (len : Option Int) (s : State) : Answer :=
  answer s (.bits (fromOffset (readVec s v) offset len))

/-- `BV_RESIZE` (40 R145). -/
def execBvResize (v : VecOperand) (n : Nat) (s : State) : Answer :=
  answer s (.bits (resize (readVec s v) n))

/-- `HAMMING`: vectors of unequal length are refused (40 R146, 93 U5). -/
def execHamming (a b : VecOperand) (s : State) : Answer :=
  inDomain ((readVec s a).length == (readVec s b).length) "HAMMING"
    (answer s (.number (hamming (readVec s a) (readVec s b))))

end Sys2Proof.Machine
end

