-- ==== Sys2Proof/Machine/Dispatch.lean ====
section
/-! DEFINITION. One arm per row of the opcode table, each a direct call of the row's meaning. -/

namespace Sys2Proof.Machine

/-- The meaning of every operation (30 R116). -/
def exec (i : Instr) (s : State) : Host.Outcome State Fault Refusal :=
  match i with
  | .rxSymbol b => Sys2Proof.Machine.execRxSymbol b s
  | .syncMatch w => Sys2Proof.Machine.execSyncMatch w s
  | .processBurst w => Sys2Proof.Machine.execProcessBurst w s
  | .bvSize v => Sys2Proof.Machine.execBvSize v s
  | .bvGetValue v pos n => Sys2Proof.Machine.execBvGetValue v pos n s
  | .bvExtract v pos n => Sys2Proof.Machine.execBvExtract v pos n s
  | .bvAppend u v => Sys2Proof.Machine.execBvAppend u v s
  | .bvFromOffset v offset len => Sys2Proof.Machine.execBvFromOffset v offset len s
  | .bvResize v n => Sys2Proof.Machine.execBvResize v n s
  | .hamming a b => Sys2Proof.Machine.execHamming a b s
  | .descramble x key => Sys2Proof.Machine.execDescramble x key s
  | .deinterleave x size => Sys2Proof.Machine.execDeinterleave x size s
  | .depuncture23 x => Sys2Proof.Machine.execDepuncture23 x s
  | .viterbiDecode y => Sys2Proof.Machine.execViterbiDecode y s
  | .rmDecode c => Sys2Proof.Machine.execRmDecode c s
  | .crc16Check b => Sys2Proof.Machine.execCrc16Check b s
  | .timeInc => Sys2Proof.Machine.execTimeInc s
  | .timeSet tnCode fn mn => Sys2Proof.Machine.execTimeSet tnCode fn mn s
  | .scrambleInit mcc mnc cc => Sys2Proof.Machine.execScrambleInit mcc mnc cc s
  | .lmacBurst w type => Sys2Proof.Machine.execLmacBurst w type s
  | .lmacSb w => Sys2Proof.Machine.execLmacSb w s
  | .lmacNdb w => Sys2Proof.Machine.execLmacNdb w s
  | .lmacNdbSf w => Sys2Proof.Machine.execLmacNdbSf w s
  | .fecDecodeBlock x key size => Sys2Proof.Machine.execFecDecodeBlock x key size s
  | .aachDecodeBlock x key => Sys2Proof.Machine.execAachDecodeBlock x key s
  | .umacDispatch blk ch => Sys2Proof.Machine.execUmacDispatch blk ch s
  | .dissectAach a => Sys2Proof.Machine.execDissectAach a s
  | .dissectBsch b => Sys2Proof.Machine.execDissectBsch b s
  | .dissectSysinfo p ch => Sys2Proof.Machine.execDissectSysinfo p ch s
  | .decodeLength li => Sys2Proof.Machine.execDecodeLength li s
  | .dissectMacResource p ch => Sys2Proof.Machine.execDissectMacResource p ch s
  | .stripFillBits p => Sys2Proof.Machine.execStripFillBits p s
  | .parseAddress p pos addrType => Sys2Proof.Machine.execParseAddress p pos addrType s
  | .parseChanAlloc p pos => Sys2Proof.Machine.execParseChanAlloc p pos s
  | .dissectMacFrag p ch => Sys2Proof.Machine.execDissectMacFrag p ch s
  | .dissectMacEnd p ch => Sys2Proof.Machine.execDissectMacEnd p ch s
  | .dissectMacDBlck p => Sys2Proof.Machine.execDissectMacDBlck p s
  | .dissectAccessDefine p ch => Sys2Proof.Machine.execDissectAccessDefine p ch s
  | .dissociationLoop blk ch => Sys2Proof.Machine.execDissociationLoop blk ch s
  | .emitTchS x => Sys2Proof.Machine.execEmitTchS x s
  | .ignoreReserved p ch why => Sys2Proof.Machine.execIgnoreReserved p ch why s
  | .fragStart a t => Sys2Proof.Machine.execFragStart a t s
  | .fragAppend v a => Sys2Proof.Machine.execFragAppend v a s
  | .fragGetSdu a => Sys2Proof.Machine.execFragGetSdu a s
  | .fragStop => Sys2Proof.Machine.execFragStop s
  | .inputUnpack byte => Sys2Proof.Machine.execInputUnpack byte s
  | .emit ch sdu => Sys2Proof.Machine.execEmit ch sdu s
  | .stop => Sys2Proof.Machine.execStop s
  | .ioError => Sys2Proof.Machine.execIoError s
  | .reset => Sys2Proof.Machine.execReset s
  | .macResource lo rest ch => Sys2Proof.Machine.execMacResource lo rest ch s
  | .macFrag lo rest ch => Sys2Proof.Machine.execMacFrag lo rest ch s
  | .macEnd lo rest ch => Sys2Proof.Machine.execMacEnd lo rest ch s
  | .sysinfo rest ch => Sys2Proof.Machine.execSysinfo rest ch s
  | .accessDefine rest ch => Sys2Proof.Machine.execAccessDefine rest ch s
  | .reserved10x lo rest ch => Sys2Proof.Machine.execReserved10x lo rest ch s
  | .macDBlck lo rest => Sys2Proof.Machine.execMacDBlck lo rest s
  | .reserved11 lo rest ch => Sys2Proof.Machine.execReserved11 lo rest ch s
  | .liReserved0 => Sys2Proof.Machine.execLiReserved0 s
  | .liOctets1 => Sys2Proof.Machine.execLiOctets1 s
  | .liOctets2to3 lo => Sys2Proof.Machine.execLiOctets2to3 lo s
  | .liOctets4to7 lo => Sys2Proof.Machine.execLiOctets4to7 lo s
  | .liOctets8to15 lo => Sys2Proof.Machine.execLiOctets8to15 lo s
  | .liOctets16to17 lo => Sys2Proof.Machine.execLiOctets16to17 lo s
  | .liOctets18 => Sys2Proof.Machine.execLiOctets18 s
  | .liOctets19 => Sys2Proof.Machine.execLiOctets19 s
  | .liOctets20to23 lo => Sys2Proof.Machine.execLiOctets20to23 lo s
  | .liOctets24to31 lo => Sys2Proof.Machine.execLiOctets24to31 lo s
  | .liOctets32to47 lo => Sys2Proof.Machine.execLiOctets32to47 lo s
  | .liOctets48to55 lo => Sys2Proof.Machine.execLiOctets48to55 lo s
  | .liOctets56to57 lo => Sys2Proof.Machine.execLiOctets56to57 lo s
  | .liOctets58 => Sys2Proof.Machine.execLiOctets58 s
  | .liReserved59 => Sys2Proof.Machine.execLiReserved59 s
  | .liReserved60to61 lo => Sys2Proof.Machine.execLiReserved60to61 lo s
  | .liSecondHalfStolen => Sys2Proof.Machine.execLiSecondHalfStolen s
  | .liStartFragmenting => Sys2Proof.Machine.execLiStartFragmenting s
  | .atNull p => Sys2Proof.Machine.execAtNull p s
  | .atSsi p pos => Sys2Proof.Machine.execAtSsi p pos s
  | .atEventLabel p pos => Sys2Proof.Machine.execAtEventLabel p pos s
  | .atUssi p pos => Sys2Proof.Machine.execAtUssi p pos s
  | .atSmi p pos => Sys2Proof.Machine.execAtSmi p pos s
  | .atSsiEventLabel p pos => Sys2Proof.Machine.execAtSsiEventLabel p pos s
  | .atSsiUsageMarker p pos => Sys2Proof.Machine.execAtSsiUsageMarker p pos s
  | .atSmiEventLabel p pos => Sys2Proof.Machine.execAtSmiEventLabel p pos s
  | .aachFrame18 header field1 tail => Sys2Proof.Machine.execAachFrame18 header field1 tail s
  | .aachHeader00 field1 tail => Sys2Proof.Machine.execAachHeader00 field1 tail s
  | .aachUnallocated header tail => Sys2Proof.Machine.execAachUnallocated header tail s
  | .aachAssigned header tail => Sys2Proof.Machine.execAachAssigned header tail s
  | .aachCommon header tail => Sys2Proof.Machine.execAachCommon header tail s
  | .aachReserved header tail => Sys2Proof.Machine.execAachReserved header tail s
  | .aachTraffic header field1 tail => Sys2Proof.Machine.execAachTraffic header field1 tail s
  | .burstSb head tail => Sys2Proof.Machine.execBurstSb head tail s
  | .burstNdb head tail => Sys2Proof.Machine.execBurstNdb head tail s
  | .burstNdbSf head tail => Sys2Proof.Machine.execBurstNdbSf head tail s

end Sys2Proof.Machine
end

