-- ==== Sys2Proof/Machine/Ports.lean ====
section
/-! DEFINITION. What the block does next: the operation port (log entry 1) before the hardware's own inputs; among these reset, stop, the next symbol, the I/O error (47 R380 to R387). -/

namespace Sys2Proof.Machine

/-- What a step has to do. -/
inductive Pending where
  /-- the word at the head of the operation port, with the port behind it -/
  | operation (word : Bits) (rest : List Bits)
  /-- reset is asserted (47 R386) -/
  | reset
  /-- stop is asserted (47 R384) -/
  | stop
  /-- the next symbol, with the input side once it is taken (47 R380, R382) -/
  | symbol (b : Bool) (env : Environment)
  /-- the input side reports an error (47 R385) -/
  | ioError
  /-- nothing to do: the block is halted, or waits for input (47 R384, R387; 60 R413) -/
  | idle
  deriving DecidableEq, Repr

/-- The next symbol: of those that wait, else the first of the next byte, whose other symbols then wait (47 R382). -/
def nextSymbol (pack : Bool) (e : Environment) : Option (Bool × Environment) :=
  match e.symbols with
  | b :: more => some (b, { e with symbols := more })
  | [] => match e.bytes with
    | [] => none
    | x :: bytes => match inputUnpack pack x with
      | [] => none
      | b :: more => some (b, { e with bytes := bytes, symbols := more })

/-- The hardware's own inputs: reset, stop, input not yet taken, I/O error (60 R405; log entry 6). -/
def pendingInput (s : State) : Pending :=
  if s.env.resetPending then .reset
  else if s.halted then .idle
  else if s.env.stopPending then .stop
  else match nextSymbol s.packMode s.env with
    | some (b, env) => .symbol b env
    | none => if s.env.ioErrorPending then .ioError else .idle

/-- What the next step does: an operation at the port comes first. -/
def pending (s : State) : Pending :=
  match s.ops with
  | word :: rest => .operation word rest
  | [] => pendingInput s

/-- Whether an operation runs while the block is halted: only `RESET` does (47 R384). -/
def runsHalted (i : Instr) : Bool := i == .reset

/-- The stop signal taken. -/
def takeStop (s : State) : State := s.setEnv { s.env with stopPending := false }

/-- The I/O error taken. -/
def takeIoError (s : State) : State := s.setEnv { s.env with ioErrorPending := false }

/-- The port with the word of an opcode-table row in front, for `withFetchWord`. -/
def portWithWord (nbits w : Nat) (ops : List Bits) : List Bits := portWord nbits w :: ops

end Sys2Proof.Machine
end

