-- ==== Sys2Proof/Machine/Step.lean ====
section
/-! DEFINITION. One step of the machine, with its three outcomes. -/

namespace Sys2Proof.Machine

/-- Run one word of the operation port; a halted block takes no step, so the word is dropped (47 R384; log entry 7). -/
def runWord (word : Bits) (s : State) : Host.Outcome State Fault Refusal :=
  match decode word with
  | .error e => .refused (.undecodable e)
  | .ok i => if s.halted && !runsHalted i then .next s else exec i s

/-- One step. -/
def step (s : State) : Host.Outcome State Fault Refusal :=
  match pending s with
  | .operation word rest => runWord word (s.setOps rest)
  | .reset => exec .reset s
  | .stop => exec .stop (takeStop s)
  | .symbol b env => exec (.rxSymbol b) (s.setEnv env)
  | .ioError => exec .ioError (takeIoError s)
  | .idle => .next s

/-- The state with an opcode-table word, operands zero, at the head of the operation port (log entry 1). -/
def State.withFetchWord (s : State) (nbits w : Nat) : State := s.setOps (portWithWord nbits w s.ops)

end Sys2Proof.Machine
end

