-- ==== Sys2Proof/Machine/Encoder.lean ====
section
/-! DEFINITION. The transmitter's side, which is not in the block: the test encoder of 95_test_vectors.md section 0.3, for claims that a decoder undoes it. -/

namespace Sys2Proof.Machine

/-- `INTERLEAVE(x, K, a)`: `z[(a · (j + 1)) mod K] = x[j]`, the inverse of the deinterleaver (95 section 0.3, 41 R161). -/
def interleave (size : BlockSize) (x : Bits) : Bits :=
  (List.range (blockK size)).foldl (fun z j => z.set (blockA size * (j + 1) % blockK size) (x.getD j false))
    (List.replicate (blockK size) false)

/-- `append_fill_bits(x) = x ⧺ 1 ⧺ 0^k` (45 R287). -/
def appendFillBits (x : Bits) (k : Nat) : Bits := x ++ true :: List.replicate k false

/-- The message bits that `FEC_ENCODE` protects: the information, its CRC with the machine's final XOR, four zeros (95 section 0.3). -/
def fecMessage (p : Params) (info : Bits) : Bits := info ++ bvToBits (crc16 p.crcXorout info) ++ List.replicate 4 false

/-- `FEC_ENCODE(info, K, a, S)` (95 section 0.3). -/
def fecEncode (p : Params) (info : Bits) (key : BitVec 32) (size : BlockSize) : Bits :=
  descramble p (interleave size (puncture p.punct (convEncode (fecMessage p info)))) key

/-- An AACH block that carries the 14 bits `m` under a key: `RM_ENCODE(m) ⊕ SCRAMBLE_SEQ(S, 30)` (95 section 0.3). -/
def aachEncode (p : Params) (m : Bits) (key : BitVec 32) : Bits := descramble p (rmEncodeBits m) key

end Sys2Proof.Machine
end

