-- ==== Sys2Proof/Machine/Trace.lean ====
section
/-! DEFINITION. The spec's notation for programs and test vectors (30 R115). -/

namespace Sys2Proof.Machine

/-- One line of a program (30 R115). -/
inductive TraceLine where
  | reset
  | feed (v : Bits)
  | feedZ (n : Nat)
  | dissect (ch : LogicalChannel) (v : Bits)
  | stop
  deriving DecidableEq, Repr

/-- One symbol fed; a halted block takes no step (47 R380, R384). -/
def feedSymbol (s : State) (b : Bool) : State :=
  if s.halted then s else (rxSymbol b s).2.setFrameFound (rxSymbol b s).1

/-- What a line does (30 R115). DEDUCED (log entry 31): in a halted block the test entry `DISSECT` does nothing, as `FEED` does: nothing more is appended to either stream (47 R384, 10 R37). -/
def TraceLine.run (s : State) : TraceLine → State
  | .reset => resetBlock s
  | .feed v => v.foldl feedSymbol s
  | .feedZ n => (List.replicate n false).foldl feedSymbol s
  | .dissect ch v => if s.halted then s else handoff v ch s
  | .stop => stopBlock s

/-- A program, line by line. -/
def runTrace (lines : List TraceLine) (s : State) : State := lines.foldl TraceLine.run s

end Sys2Proof.Machine
end

