-- ==== Sys2Proof/Safety.lean ====
section
/-! DEFINITION. What a safe state and a safe step are, in the terms the claims use. The machine has no fault (60 R400), so safety here is that the state keeps the invariants the spec states. -/

namespace Sys2Proof.Machine

/-- What every step keeps, from whatever state has it: the time in range (10 R24), the synchronizer's flag, loss flag and counter in agreement (43 R224, 10 R23), the counters within their bounds (10 R21, R34, R35), the parameters fit for the machine (10 R21), no empty emission (45 R299). -/
structure Safe (s : State) : Prop where
  time : s.time.wf = true
  startTime : s.frag.startTime.wf = true
  synchronized : s.sync.synchronized = decide (0 < s.sync.bitCounter)
  lossReported : s.sync.lossReported = !s.sync.synchronized
  counter : s.sync.bitCounter ≤ 25500
  dissocCount : s.burst.dissocCount ≤ 32
  fragmentCount : s.frag.fragmentCount ≤ 65535
  params : s.params.wf = true
  emissions : ∀ e ∈ s.emissions, e.sdu ≠ []

/-- What a step of the hardware's own inputs also keeps (an operation at the port may append to a stored vector): the window has at most 509 bits (10 R22), the fragment buffer keeps its bound (46 R360), a stopped slot is empty (46 R364). -/
structure Bounded (s : State) : Prop where
  window : s.sync.buffer.length ≤ 509
  fragBuffer : s.frag.buffer.length ≤ s.params.fragCap
  stopped : s.frag.stopped = true → s.frag.buffer = []

/-- The position of a time in its hyperframe, 0 to 4319 (42 R200). -/
def slotNumber (t : TetraTime) : Nat := ((t.mn - 1) * 18 + (t.fn - 1)) * 4 + (t.tn - 1)

/-- The output side only grew, by the records `new` (10 R39). -/
def OutputGrew (s t : State) (new : List Output) : Prop := t.output = s.output ++ new

/-- The fields no dissection unit and no lower-MAC handler writes: the synchronizer, the control flag, the configuration, the parameters, the input side, the step's result signal, the port (10 R20 to R23, R37, R38). -/
structure OutsideMac (s t : State) : Prop where
  sync : t.sync = s.sync
  halted : t.halted = s.halted
  keepFillBits : t.keepFillBits = s.keepFillBits
  packMode : t.packMode = s.packMode
  params : t.params = s.params
  env : t.env = s.env
  frameFound : t.frameFound = s.frameFound
  ops : t.ops = s.ops

/-- One block of a burst, from `s` to `t`: decoded and handed over as `ch`, or, where its CRC fails, reported and dropped with nothing else written (44 R246, R247). -/
def HandedOver (x : Bits) (key : BitVec 32) (size : BlockSize) (ch : LogicalChannel) (s t : State) : Prop :=
  (∃ r, exec (.fecDecodeBlock x key size) s = .next (s.returns (.bits r)) ∧ t = handoff r ch s) ∨
  (exec (.fecDecodeBlock x key size) s = .next ((s.log (.fecFail (blockK size) (blockCrc size))).returns .fail) ∧
    t = s.log (.fecFail (blockK size) (blockCrc size)))

/-- The number of restarts after which the dissociation loop of a burst stops (45 R294). -/
def restartsLeft (s : State) : Nat := dissocMax - s.burst.dissocCount

end Sys2Proof.Machine
end

