-- ==== Sys2Proof/Certificates/Slice0/Obligations.lean ====
section
/-! DEFINITION. The statements about this machine. Each names the rules of spec/ it rests on; a premise is on the state and the operands alone. -/

open Sys2Proof Sys2Proof.Machine

/-! ### Words of the operation port -/

/-- Every well-formed operation is decoded from its own encoding, whatever padding follows: no operand bit is dropped. The layout is the model's choice (log entry 2); the codes of the rows are the opcode table's (30 R116). -/
def Obligations.DecodeOfEncode : Prop :=
  ∀ i : Instr, i.wf = true → ∀ k, decode (encode i ++ List.replicate k false) = .ok i

/-- Whatever the decoder answers is well-formed, and the word is that operation's encoding with zero padding: no two words stand for one operation, and no bit of a word goes unread (log entry 2). -/
def Obligations.DecodedWordIsEncoding : Prop :=
  ∀ (w : Bits) (i : Instr), decode w = .ok i → i.wf = true ∧ ∃ k, w = encode i ++ List.replicate k false

/-- A few words of the opcode table, in its own numbering, decode to the rows they stand for (30 R116). The model's choice (log entry 3): that 0x3F, 0x05, 0x09 and the 24-bit word name a row of a narrower field, by the priority and the widths in which `decodeTableWord` tries the formats; that operands are zero (log entry 2). -/
def Obligations.TableWordsDecode : Prop :=
  decodeTableWord 8 0x30 = some .timeInc ∧ decodeTableWord 8 0x54 = some (.decodeLength 0) ∧
  decodeTableWord 8 0x63 = some .fragStop ∧ decodeTableWord 8 0x74 = some .reset ∧
  decodeTableWord 8 0x11 = some (.bvGetValue (.value []) 0 0) ∧ decodeTableWord 8 0x3F = some .liStartFragmenting ∧
  decodeTableWord 8 0x05 = some (.atSsiEventLabel [] 0) ∧ decodeTableWord 8 0x09 = some (.accessDefine [] .schF) ∧
  decodeTableWord 24 0b1101000011101001110100 =
    some (.burstNdb (List.replicate 244 false) (List.replicate 244 false)) ∧
  decodeTableWord 8 0x75 ≠ some .reset

/-! ### Steps -/

/-- A step runs the operation at the head of the port: it is `exec` of the decoded operation on the state with that word taken, if the block is not halted or the operation is `RESET`; in a halted block the word is dropped (47 R384; log entries 1 and 7), and a word that is no operation is refused. -/
def Obligations.StepRunsDecoded : Prop :=
  ∀ (s : State) (word : Bits) (rest : List Bits), s.ops = word :: rest →
    (∀ i, decode word = .ok i → s.halted = false ∨ i = .reset → step s = exec i (s.setOps rest)) ∧
    (∀ i, decode word = .ok i → s.halted = true → i ≠ .reset → step s = .next (s.setOps rest)) ∧
    (∀ e, decode word = .error e → step s = .refused (.undecodable e))

/-- With no operation at the port a step takes the hardware's own inputs: reset before everything, nothing while halted, then stop, then a symbol that waits, then the symbols of the next byte, then the I/O error; with none of them the state stays (47 R380, R382, R384 to R386; 60 R405, R413; the place of the I/O error after unread input is log entry 6). -/
def Obligations.StepTakesInputs : Prop :=
  ∀ s : State, s.ops = [] →
    (s.env.resetPending = true → step s = exec .reset s) ∧
    (s.env.resetPending = false → s.halted = true → step s = .next s) ∧
    (s.env.resetPending = false → s.halted = false →
      (s.env.stopPending = true → step s = exec .stop (s.setEnv { s.env with stopPending := false })) ∧
      (s.env.stopPending = false →
        (∀ b more, s.env.symbols = b :: more → step s = exec (.rxSymbol b) (s.setEnv { s.env with symbols := more })) ∧
        (∀ x bytes, s.env.symbols = [] → s.env.bytes = x :: bytes → s.packMode = false →
          step s = exec (.rxSymbol (x.getLsbD 0)) (s.setEnv { s.env with bytes := bytes })) ∧
        (∀ x bytes, s.env.symbols = [] → s.env.bytes = x :: bytes → s.packMode = true →
          step s = exec (.rxSymbol (x.getLsbD 0)) (s.setEnv { s.env with
            bytes := bytes
            symbols := [x.getLsbD 1, x.getLsbD 2, x.getLsbD 3, x.getLsbD 4, x.getLsbD 5, x.getLsbD 6, x.getLsbD 7] })) ∧
        (s.env.symbols = [] → s.env.bytes = [] → s.env.ioErrorPending = true →
          step s = exec .ioError (s.setEnv { s.env with ioErrorPending := false })) ∧
        (s.env.symbols = [] → s.env.bytes = [] → s.env.ioErrorPending = false → step s = .next s)))

/-- Every step keeps the invariants the spec states of the block's state: the time in range, the synchronizer's flag, loss flag and counter in agreement, the counters within their bounds, no empty emission (10 R21, R23, R24, R34, R35; 43 R224; 45 R299). -/
def Obligations.EveryStepKeepsSafe : Prop := ∀ s t : State, Safe s → step s = .next t → Safe t

/-- A step of the hardware's own inputs keeps the bounds of the two stored vectors and leaves the port empty: at most 509 bits in the window, the fragment buffer within its capacity, a stopped slot empty (10 R22, 46 R360, R364). -/
def Obligations.InputStepKeepsBounded : Prop :=
  ∀ s t : State, s.ops = [] → Bounded s → step s = .next t → Bounded t ∧ t.ops = []

/-- The state after reset has the invariants (70 R440). The model's choice: that the operation port is empty in it (log entry 1), and that its parameters are the spec's defaults (log entry 9). -/
def Obligations.ResetStateIsSafe : Prop := Safe State.reset ∧ Bounded State.reset ∧ State.reset.ops = []

/-- A well-formed operation always goes on, but for a `HAMMING` of stored vectors of unequal length: the block has no trap, and no encoding is illegal (60 R400, 30 R111, 93 U5). -/
def Obligations.WellFormedOperationsGoOn : Prop :=
  ∀ (i : Instr) (s : State), i.wf = true →
    (∀ a b, i = .hamming a b → (readVec s a).length = (readVec s b).length) → ∃ t, exec i s = .next t

/-- No step takes anything back from the output streams: records are only appended, in order (10 R39, 60 R402). -/
def Obligations.OutputOnlyGrows : Prop :=
  ∀ s t : State, step s = .next t → ∃ new, t.output = s.output ++ new

/-- The parameters never change, and the two configuration inputs are sampled by `RESET` alone (47 R381, 70 R442). -/
def Obligations.ConfigurationFixed : Prop :=
  ∀ (i : Instr) (s t : State), exec i s = .next t →
    t.params = s.params ∧ (i ≠ .reset → t.keepFillBits = s.keepFillBits ∧ t.packMode = s.packMode)

/-- Who writes what: `Time`, by `TIME_INC`, `TIME_SET` and whatever runs them (an NDB and an NDB_SF leave it); the cell's identity and code, by a BSCH alone, so that no NDB, NDB_SF or other channel's block changes them, and its frequency by a SYSINFO alone, so that an AACH, a TCH_S and the channels without a dissector leave the whole cell; the synchronizer's flags and counter, by a symbol, a match and reset; `Ctl.halted`, by `STOP`, `IO_ERROR` and `RESET` (10 R20, R21, R23, R25 to R27, R37; 42 R202). -/
def Obligations.StateWriters : Prop :=
  (∀ (i : Instr) (s t : State), exec i s = .next t →
      match i with
      | .timeInc | .timeSet .. | .rxSymbol _ | .processBurst _ | .lmacBurst _ .sb | .lmacSb _ | .umacDispatch _ .bsch
      | .dissectBsch _ | .burstSb .. | .burstNdb .. | .burstNdbSf .. | .reset => True
      | _ => t.time = s.time) ∧
  (∀ (i : Instr) (s t : State), exec i s = .next t →
      match i with
      | .dissectBsch _ | .umacDispatch _ .bsch => t.cell.downlinkFreqHz = s.cell.downlinkFreqHz
      | .umacDispatch _ .aach | .umacDispatch _ .tchS | .umacDispatch _ .tch | .umacDispatch _ .blch | .umacDispatch _ .unknown =>
        t.cell = s.cell
      | .dissectSysinfo .. | .sysinfo .. | .dissociationLoop .. | .umacDispatch .. | .lmacNdb _ | .lmacNdbSf _ | .lmacBurst _ .ndb
      | .lmacBurst _ .ndbSf =>
        t.cell.mcc = s.cell.mcc ∧ t.cell.mnc = s.cell.mnc ∧ t.cell.colourCode = s.cell.colourCode ∧
          t.cell.scramblingCode = s.cell.scramblingCode
      | .rxSymbol _ | .processBurst _ | .lmacBurst _ .sb | .lmacSb _ | .burstSb .. | .burstNdb .. | .burstNdbSf .. | .reset => True
      | _ => t.cell = s.cell) ∧
  (∀ (i : Instr) (s t : State), exec i s = .next t →
      (match i with
        | .rxSymbol _ | .syncMatch _ | .reset => True
        | _ => t.sync.synchronized = s.sync.synchronized ∧ t.sync.bitCounter = s.sync.bitCounter ∧
            t.sync.lossReported = s.sync.lossReported) ∧
      (match i with
        | .stop | .ioError | .reset => True
        | _ => t.halted = s.halted))

/-! ### Interfaces -/

/-- `RESET` gives every state element its reset value, samples the two configuration inputs and leaves both output streams (70 R440). -/
def Obligations.ResetGivesResetValues : Prop :=
  ∀ s : State, ∃ t, exec .reset s = .next t ∧
    t.sync = ⟨false, 0, [], true⟩ ∧ t.time = ⟨1, 1, 1⟩ ∧ t.cell = ⟨0, 0, 0, 3, 0⟩ ∧
    t.mac = ⟨.unallocated, 0, .unknown, false⟩ ∧ t.addr = ⟨0, 0, 0, 0, 0, 0, 0⟩ ∧
    (∀ (k : Nat) (h : k < 64), t.umEnc[k] = 0) ∧
    t.frag = ⟨true, ⟨0, 0, 0, 0, 0, 0, 0⟩, 0, ⟨1, 1, 1⟩, 0, [], 0, 0⟩ ∧
    t.burst.dissocCount = 0 ∧ t.halted = false ∧
    t.keepFillBits = s.env.keepFillBitsLevel ∧ t.packMode = s.env.packModeLevel ∧ t.output = s.output

/-- `STOP` sets `Ctl.halted` and nothing else; `IO_ERROR` does so after its log record. A halted block does nothing until it is reset: a step leaves every field but the port as it was, and appends nothing to either stream (47 R384, R385; log entry 7). -/
def Obligations.StopHaltsUntilReset : Prop :=
  (∀ s : State,
      exec .stop s = .next ((s.setHalted true).returns .none) ∧
      exec .ioError s = .next (((s.log .ioError).setHalted true).returns .none)) ∧
  (∀ s t : State, s.halted = true → s.env.resetPending = false →
      (∀ word rest, s.ops = word :: rest → decode word ≠ .ok .reset) → step s = .next t → t = s.setOps s.ops.tail)

/-- `INPUT_UNPACK` gives bit 0 of the byte, or its eight bits from the least significant, and writes no state; `EMIT` appends one record with the address and time as they stand, nothing for an empty SDU, and changes nothing else (47 R382, R383). -/
def Obligations.PortsUnpackAndEmit : Prop :=
  (∀ (x : Byte) (s : State),
      (s.packMode = false → exec (.inputUnpack x) s = .next (s.returns (.bits [x.getLsbD 0]))) ∧
      (s.packMode = true → ∃ v, exec (.inputUnpack x) s = .next (s.returns (.bits v)) ∧ v.length = 8 ∧
        ∀ i < 8, v[i]? = some (x.toNat / 2 ^ i % 2 == 1))) ∧
  (∀ (ch : LogicalChannel) (v : Bits) (s : State),
      (v ≠ [] → exec (.emit ch v) s = .next ((s.push (.emission ⟨ch, v, s.addr, s.time⟩)).returns .none)) ∧
      (v = [] → exec (.emit ch v) s = .next (s.returns .none)))

/-! ### Burst synchronizer -/

/-- A symbol into a window that stays short of 510 bits is appended, the counter ticks where the parameter says so, and `frame_found` is false. A tick counts down to 0 and stays there; at 0 the flag is cleared, and the loss is logged if it was not (43 R220, R224). -/
def Obligations.RxSymbolFillsWindow : Prop :=
  (∀ (b : Bool) (s : State), s.sync.buffer.length < 509 →
      (s.params.syncDecOnPartial = true → exec (.rxSymbol b) s =
        .next (((counterTick (s.setSync { s.sync with buffer := s.sync.buffer ++ [b] })).setFrameFound false).returns (.flag false))) ∧
      (s.params.syncDecOnPartial = false → exec (.rxSymbol b) s =
        .next (((s.setSync { s.sync with buffer := s.sync.buffer ++ [b] }).setFrameFound false).returns (.flag false)))) ∧
  (∀ s : State,
      (s.sync.bitCounter = 0 → counterTick s = s) ∧
      (1 < s.sync.bitCounter → counterTick s = s.setSync { s.sync with bitCounter := s.sync.bitCounter - 1 }) ∧
      (s.sync.bitCounter = 1 → s.sync.lossReported = false →
        counterTick s = (s.log .syncLoss).setSync ⟨false, 0, s.sync.buffer, true⟩) ∧
      (s.sync.bitCounter = 1 → s.sync.lossReported = true → counterTick s = s.setSync ⟨false, 0, s.sync.buffer, true⟩))

/-- A symbol that completes the window: on a match the block synchronizes, time advances, the burst is processed, the window is cleared and the counter stands at 25499; on a grace window the same without the match; otherwise the window drops its first bit (43 R220, R222, R223). -/
def Obligations.RxSymbolOnFullWindow : Prop :=
  ∀ (b : Bool) (s : State), s.sync.buffer.length = 509 → s.params.wf = true →
    (windowMatches s.params (s.sync.buffer ++ [b]) = true →
      ∃ t v, exec .timeInc (s.setSync ⟨true, 25500, s.sync.buffer ++ [b], false⟩) =
          .next (((s.setSync ⟨true, 25500, s.sync.buffer ++ [b], false⟩).setTime t).returns .none) ∧
        exec (.processBurst (s.sync.buffer ++ [b])) ((s.setSync ⟨true, 25500, s.sync.buffer ++ [b], false⟩).setTime t) = .next v ∧
        exec (.rxSymbol b) s = .next (((v.setSync ⟨true, 25499, [], false⟩).setFrameFound true).returns (.flag true))) ∧
    (windowMatches s.params (s.sync.buffer ++ [b]) = false → s.sync.synchronized = true → s.sync.bitCounter % 510 = 0 →
      ∃ t v, exec .timeInc (s.setSync { s.sync with buffer := s.sync.buffer ++ [b] }) =
          .next (((s.setSync { s.sync with buffer := s.sync.buffer ++ [b] }).setTime t).returns .none) ∧
        exec (.processBurst (s.sync.buffer ++ [b])) ((s.setSync { s.sync with buffer := s.sync.buffer ++ [b] }).setTime t) =
          .next v ∧
        exec (.rxSymbol b) s =
          .next (((counterTick (v.setSync { s.sync with buffer := [] })).setFrameFound false).returns (.flag false))) ∧
    (windowMatches s.params (s.sync.buffer ++ [b]) = false → s.sync.synchronized = false ∨ s.sync.bitCounter % 510 ≠ 0 →
      exec (.rxSymbol b) s =
        .next (((counterTick (s.setSync { s.sync with buffer := s.sync.buffer.drop 1 ++ [b] })).setFrameFound false).returns
          (.flag false)))

/-- `SYNC_MATCH`: the head equals `TS_N3_BEGIN` and fewer than two bits of the tail differ from `TS_N3_END`; only a match writes, and it writes the three elements (43 R222). -/
def Obligations.SyncMatchTest : Prop :=
  ∀ (w : Bits) (s : State), w.length = 510 → s.params.wf = true →
    (w.take 12 = bvToBits s.params.tsN3Begin ∧
        ((List.range 10).filter fun i => w[500 + i]? != (bvToBits s.params.tsN3End)[i]?).length < 2 →
      exec (.syncMatch w) s = .next ((s.setSync ⟨true, 25500, s.sync.buffer, false⟩).returns (.flag true))) ∧
    (¬ (w.take 12 = bvToBits s.params.tsN3Begin ∧
        ((List.range 10).filter fun i => w[500 + i]? != (bvToBits s.params.tsN3End)[i]?).length < 2) →
      exec (.syncMatch w) s = .next (s.returns (.flag false)))

/-- After a match, as long as no later window matches. One symbol: the counter falls by one and the window holds `(25499 - counter) mod 510` bits again; on the symbol that completes the window time advances and `PROCESS_BURST` runs on it, on every other one it only grows. So after `n` symbols the window holds `n mod 510` bits, the counter has fallen by exactly `n`, and the block stays synchronized until the counter reaches 0 at symbol 25499 (43 R223, R224). -/
def Obligations.GraceWindowsEvery510Symbols : Prop :=
  (∀ (b : Bool) (s : State), s.params.syncDecOnPartial = true → s.sync.synchronized = true →
      1 < s.sync.bitCounter → s.sync.bitCounter ≤ 25499 → s.sync.buffer.length = (25499 - s.sync.bitCounter) % 510 →
      (s.sync.buffer.length = 509 → windowMatches s.params (s.sync.buffer ++ [b]) = false) →
      let u := s.setSync { s.sync with buffer := s.sync.buffer ++ [b] }
      ∃ t, exec (.rxSymbol b) s = .next (t.returns (.flag false)) ∧ t.sync.synchronized = true ∧
        t.sync.bitCounter = s.sync.bitCounter - 1 ∧ t.sync.buffer.length = (25499 - t.sync.bitCounter) % 510 ∧
        (s.sync.buffer.length ≠ 509 → t = (counterTick u).setFrameFound false) ∧
        (s.sync.buffer.length = 509 → ∃ c y, exec .timeInc u = .next ((u.setTime c).returns .none) ∧
          exec (.processBurst (s.sync.buffer ++ [b])) (u.setTime c) = .next y ∧
          t = (counterTick (y.setSync { y.sync with buffer := [] })).setFrameFound false)) ∧
  (∀ (s : State) (v : Bits), s.halted = false → s.params.syncDecOnPartial = true → s.sync.synchronized = true →
      s.sync.bitCounter = 25499 → s.sync.buffer = [] → v.length ≤ 25499 →
      (∀ k, 0 < k → k ≤ v.length → ((v.take k).foldl feedSymbol s).frameFound = false) →
      (v.foldl feedSymbol s).sync.bitCounter = 25499 - v.length ∧
        (v.foldl feedSymbol s).sync.buffer.length = v.length % 510 ∧
        (v.foldl feedSymbol s).sync.synchronized = decide (v.length < 25499))

/-- `PROCESS_BURST`: beyond five errors in the nearest training sequence the window is only reported; otherwise the class is the first of SB, NDB, NDB_SF that reaches the minimum, and the burst goes to the lower MAC (43 R225). -/
def Obligations.ProcessBurstClassifies : Prop :=
  ∀ (w : Bits) (s : State), w.length = 510 →
    let d0 := hamming (w.slice 214 252) (bvToBits s.params.tsSync)
    let d1 := hamming (w.slice 244 266) (bvToBits s.params.tsN1)
    let d2 := hamming (w.slice 244 266) (bvToBits s.params.tsN2)
    let c := if d0 ≤ d1 ∧ d0 ≤ d2 then BurstClass.sb else if d1 ≤ d2 then .ndb else .ndbSf
    (5 < d0 ∧ 5 < d1 ∧ 5 < d2 → exec (.processBurst w) s = .next ((s.log (.burstReject d0 d1 d2)).returns .none)) ∧
    (d0 ≤ 5 ∨ d1 ≤ 5 ∨ d2 ≤ 5 →
      ∃ t, exec (.lmacBurst w c) (s.setBurst { s.burst with type := c }) = .next t ∧ exec (.processBurst w) s = .next t)

/-- The burst-class rows: a window with a training sequence in its place, and no nearer one before it in the order, is processed as a burst of that row's class (30 R100, 43 R225). That a row, as an operation, runs `PROCESS_BURST` on such a window is the model's choice (log entry 17). -/
def Obligations.BurstClassRows : Prop :=
  ∀ (head tail : Bits) (s : State),
    (head.length = 214 → tail.length = 258 →
      ∃ t, exec (.lmacBurst (head ++ bvToBits s.params.tsSync ++ tail) .sb) (s.setBurst { s.burst with type := .sb }) = .next t ∧
        exec (.burstSb head tail) s = .next t) ∧
    (head.length = 244 → tail.length = 244 →
      (head ++ bvToBits s.params.tsN1 ++ tail).slice 214 252 ≠ bvToBits s.params.tsSync →
      ∃ t, exec (.lmacBurst (head ++ bvToBits s.params.tsN1 ++ tail) .ndb) (s.setBurst { s.burst with type := .ndb }) = .next t ∧
        exec (.burstNdb head tail) s = .next t) ∧
    (head.length = 244 → tail.length = 244 → s.params.tsN1 ≠ s.params.tsN2 →
      (head ++ bvToBits s.params.tsN2 ++ tail).slice 214 252 ≠ bvToBits s.params.tsSync →
      ∃ t, exec (.lmacBurst (head ++ bvToBits s.params.tsN2 ++ tail) .ndbSf) (s.setBurst { s.burst with type := .ndbSf }) = .next t ∧
        exec (.burstNdbSf head tail) s = .next t)

/-! ### Bit vectors -/

/-- `BV_GET_VALUE` reads its field most significant bit first, raises `OutOfRange` past the end, and is no operation for more than 64 bits; it writes no state. A field of `m + n` bits is the first `m` bits times `2^n` plus the next `n` (40 R141, 20 R63). A read of 0 bits past the end raises too: the model follows 40 R141 and not 20 R66 (log entry 30). That the operation by itself returns what was raised and makes no record is the model's choice (log entry 15). -/
def Obligations.GetValueReadsField : Prop :=
  (∀ (o : VecOperand) (pos n : Nat) (s : State),
      (n ≤ 64 → pos + n ≤ (readVec s o).length →
        exec (.bvGetValue o pos n) s = .next (s.returns
          (.number (∑ i ∈ Finset.range n, ((readVec s o).getD (pos + i) false).toNat * 2 ^ (n - 1 - i))))) ∧
      (n ≤ 64 → (readVec s o).length < pos + n →
        exec (.bvGetValue o pos n) s = .next (s.returns (.raised ⟨pos, n, (readVec s o).length⟩))) ∧
      (64 < n → exec (.bvGetValue o pos n) s = .refused (.outsideDomain "BV_GET_VALUE"))) ∧
  (∀ (o : VecOperand) (pos m n x y : Nat) (s : State), m + n ≤ 64 →
      exec (.bvGetValue o pos m) s = .next (s.returns (.number x)) →
      exec (.bvGetValue o (pos + m) n) s = .next (s.returns (.number y)) →
      exec (.bvGetValue o pos (m + n)) s = .next (s.returns (.number (x * 2 ^ n + y))))

/-- `BV_EXTRACT` and `BV_FROM_OFFSET` give the bits of the requested range that exist, and write no state (40 R142, R144). -/
def Obligations.SlicesGiveBitsThatExist : Prop :=
  ∀ (o : VecOperand) (s : State),
    (∀ pos n : Int, ∃ w, exec (.bvExtract o pos n) s = .next (s.returns (.bits w)) ∧
      ∀ i : Nat, w[i]? = if (i : Int) < n then (readVec s o)[(max pos 0).toNat + i]? else none) ∧
    (∀ offset : Nat, exec (.bvFromOffset o offset none) s = .next (s.returns (.bits ((readVec s o).drop offset)))) ∧
    (∀ (offset : Nat) (n : Int), ∃ w, exec (.bvFromOffset o offset (some n)) s = .next (s.returns (.bits w)) ∧
      ∀ i : Nat, w[i]? = if (i : Int) < n then (readVec s o)[offset + i]? else none)

/-- `BV_SIZE`, `BV_RESIZE` and `HAMMING` by their definitions, the last refused for unequal lengths, writing no state; `BV_APPEND` replaces its target by the concatenation of the old values: a stored vector is written, and nothing else; a value leaves the state alone (40 R140, R143, R145, R146). -/
def Obligations.SizeResizeHammingAppend : Prop :=
  (∀ (o a b : VecOperand) (n : Nat) (s : State),
      exec (.bvSize o) s = .next (s.returns (.number (readVec s o).length)) ∧
      (∃ w, exec (.bvResize o n) s = .next (s.returns (.bits w)) ∧ w.length = n ∧
        ∀ i < n, w[i]? = some ((readVec s o).getD i false)) ∧
      ((readVec s a).length = (readVec s b).length → exec (.hamming a b) s = .next (s.returns (.number
        ((List.range (readVec s a).length).filter fun i => (readVec s a)[i]? != (readVec s b)[i]?).length))) ∧
      ((readVec s a).length ≠ (readVec s b).length → exec (.hamming a b) s = .refused (.outsideDomain "HAMMING"))) ∧
  (∀ (v : VecOperand) (u : Bits) (s : State),
      exec (.bvAppend (.value u) v) s = .next (s.returns (.bits (u ++ readVec s v))) ∧
      exec (.bvAppend .syncBuffer v) s = .next ((s.setSync { s.sync with buffer := s.sync.buffer ++ readVec s v }).returns
        (.bits (s.sync.buffer ++ readVec s v))) ∧
      exec (.bvAppend .fragBuffer v) s = .next ((s.setFrag { s.frag with buffer := s.frag.buffer ++ readVec s v }).returns
        (.bits (s.frag.buffer ++ readVec s v))))

/-! ### Block codes -/

/-- Descrambling twice with one code gives the block back, at its own length, for the default sequence and for any other, and writes no state. The default sequence obeys its feedback polynomial: each bit is the sum of the earlier bits at the fourteen taps, the bits before the first being the seed's (41 R160). -/
def Obligations.DescrambleSequence : Prop :=
  (∀ (x : Bits) (key : BitVec 32) (s : State), ∃ y, y.length = x.length ∧
      exec (.descramble x key) s = .next (s.returns (.bits y)) ∧ exec (.descramble y key) s = .next (s.returns (.bits x))) ∧
  (∀ (key : BitVec 32) (n i : Nat) (s : State), i < n → s.params.scrambleSeq = .default →
      ∃ y, exec (.descramble (List.replicate n false) key) s = .next (s.returns (.bits y)) ∧
        y[i]? = some ([32, 26, 23, 22, 16, 12, 11, 10, 8, 7, 5, 4, 2, 1].foldl
          (fun b t => b ^^ (if t ≤ i then y.getD (i - t) false else key.getLsbD (32 - t + i))) false))

/-- `DEINTERLEAVE` takes position `(a · (j + 1)) mod K`; it permutes the block and undoes the test encoder's interleaver; other lengths are refused (41 R161; 95 section 0.3, P4; 93 U5). -/
def Obligations.DeinterleavePermutes : Prop :=
  ∀ p ∈ [(BlockSize.k120, 120, 11), (.k216, 216, 101), (.k432, 432, 103)], ∀ (x : Bits) (s : State),
    (x.length = p.2.1 → ∃ y, exec (.deinterleave x p.1) s = .next (s.returns (.bits y)) ∧ y.length = p.2.1 ∧
      (∀ j < p.2.1, y[j]? = x[p.2.2 * (j + 1) % p.2.1]?) ∧ y.Perm x ∧
      exec (.deinterleave (interleave p.1 x) p.1) s = .next (s.returns (.bits x))) ∧
    (x.length ≠ p.2.1 → exec (.deinterleave x p.1) s = .refused (.outsideDomain "DEINTERLEAVE"))

/-- `DEPUNCTURE_2_3` puts three received bits at the puncturing positions of each group of eight symbols and erasures everywhere else (41 R162). -/
def Obligations.DepuncturePlacesBits : Prop :=
  ∀ (x : Bits) (s : State), x.length = 120 ∨ x.length = 216 ∨ x.length = 432 →
    s.params.punct.p1 ≠ s.params.punct.p2 → s.params.punct.p1 ≠ s.params.punct.p3 → s.params.punct.p2 ≠ s.params.punct.p3 →
    ∃ y, exec (.depuncture23 x) s = .next (s.returns (.symbols y)) ∧ y.length = 8 * x.length / 3 ∧
      ∀ m < x.length / 3,
        y[8 * m + s.params.punct.p1]? = x[3 * m]?.map symOfBit ∧
        y[8 * m + s.params.punct.p2]? = x[3 * m + 1]?.map symOfBit ∧
        y[8 * m + s.params.punct.p3]? = x[3 * m + 2]?.map symOfBit ∧
        ∀ k : Fin 8, k ≠ s.params.punct.p1 → k ≠ s.params.punct.p2 → k ≠ s.params.punct.p3 →
          y[8 * m + k]? = some .erased

/-- The default decoder answers `N` bits whose mother code differs from the `4N` symbols in the fewest positions that are not erased: no other `N` bits do better, whatever the choice among equals (41 R164, 93 U1). The mother code is the sum of the input bits at the taps of the four generators, the bits before the first being 0 (41 R163). -/
def Obligations.ViterbiIsMaximumLikelihood : Prop :=
  (∀ (y : List Sym) (s : State), y.length = 320 ∨ y.length = 576 ∨ y.length = 1152 → s.params.viterbi = .default →
      ∃ u, exec (.viterbiDecode y) s = .next (s.returns (.bits u)) ∧ u.length = y.length / 4 ∧
        ∀ u' : Bits, u'.length = u.length → symDistance y (convEncode u) ≤ symDistance y (convEncode u')) ∧
  (∀ (u : Bits), (convEncode u).length = 4 * u.length ∧ ∀ k < u.length, ∀ i < 4,
      (convEncode u)[4 * k + i]? = some ((List.range 5).foldl (fun b d =>
        b ^^ (([0b10011, 0b11101, 0b10111, 0b11011].getD i 0).testBit d && decide (d ≤ k) && u.getD (k - d) false)) false))

/-- With the default puncturing pattern, every implementation of the decoder gives back what an error-free encoder sent (41 R164(a)). What it is handed holds the mother code at the puncturing positions of each group of eight, and erasures elsewhere (41 R162, R163). -/
def Obligations.ViterbiRecoversCodewords : Prop :=
  (∀ (u : Bits) (s : State), u.length = 80 ∨ u.length = 144 ∨ u.length = 288 → s.params.punct = Params.default.punct →
      exec (.viterbiDecode (received s.params.punct u)) s = .next (s.returns (.bits u))) ∧
  (∀ (P : Puncture) (u : Bits), u.length % 2 = 0 → (received P u).length = 4 * u.length ∧ ∀ k < 4 * u.length,
      (received P u)[k]? = if k % 8 = P.p1 ∨ k % 8 = P.p2 ∨ k % 8 = P.p3 then (convEncode u)[k]?.map symOfBit else some .erased)

/-- The Reed-Muller decoder gives back the message of every code word, and `0^14` for the all-zero word, whatever the generator matrix; `AACH_DECODE_BLOCK` undoes the scrambled code of any 14 bits (41 R166, 44 R248). -/
def Obligations.ReedMullerRecoversCodewords : Prop :=
  (∀ (m : Bits) (s : State),
      (m.length = 14 → exec (.rmDecode (rmEncodeBits m)) s = .next (s.returns (.bits m))) ∧
      exec (.rmDecode (List.replicate 30 false)) s = .next (s.returns (.bits (List.replicate 14 false)))) ∧
  (∀ (m : Bits) (key : BitVec 32) (s : State), m.length = 14 →
      exec (.aachDecodeBlock (aachEncode s.params m key) key) s = .next (s.returns (.bits m)))

/-- `CRC16_CHECK` passes exactly when the last 16 bits are the CRC of the bits before them, read most significant first (41 R167); under 16 bits it is refused (93 U5, log entry 16). The CRC by its polynomial: the check passes exactly when `X^16 + X^12 + X^5 + 1` divides the whole block, the final XOR undone in its last 16 bits and sixteen ones, the initial value, added at its head. -/
def Obligations.CrcComparesTrailingBits : Prop :=
  (∀ (m c : Bits) (s : State),
      (c.length = 16 → exec (.crc16Check (m ++ c)) s =
        .next (s.returns (.flag (decide (c = bvToBits (crc16 s.params.crcXorout m)))))) ∧
      (m.length < 16 → exec (.crc16Check m) s = .refused (.outsideDomain "CRC16_CHECK"))) ∧
  (∀ (m c : Bits) (s : State), c.length = 16 →
      let X : Polynomial (ZMod 2) := Polynomial.X
      let poly := fun v : Bits => v.foldl (fun (p : Polynomial (ZMod 2)) b => p * X + if b then 1 else 0) 0
      ∃ passes, exec (.crc16Check (m ++ c)) s = .next (s.returns (.flag passes)) ∧
        (passes = true ↔ X ^ 16 + X ^ 12 + X ^ 5 + 1 ∣
          poly (m ++ List.zipWith Bool.xor c (bvToBits s.params.crcXorout)) + poly (List.replicate 16 true) * X ^ m.length))

/-! ### Cell and time -/

/-- `TIME_INC` moves to the next of the 4320 slots of a hyperframe, stays in range, and writes nothing but the time (42 R200). -/
def Obligations.TimeIncIsNextSlot : Prop :=
  ∀ s : State, s.time.wf = true → ∃ t, exec .timeInc s = .next ((s.setTime t).returns .none) ∧ t.wf = true ∧
    slotNumber t = (slotNumber s.time + 1) % 4320

/-- 4320 increments return to the start, and no fewer do (42 R200). -/
def Obligations.TimePeriod : Prop :=
  ∀ t : TetraTime, t.wf = true → timeNext^[4320] t = t ∧ ∀ k, 0 < k → k < 4320 → timeNext^[k] t ≠ t

/-- `TIME_SET` writes all three components or none, with a record of the refused values. The default scrambling code is the extended colour code, `mcc`, `mnc` and `cc` above the two low ones, and no state is written (42 R201, R205). -/
def Obligations.TimeSetAndScrambleInit : Prop :=
  (∀ (tnCode : BitVec 2) (fn : BitVec 5) (mn : BitVec 6) (s : State),
      (1 ≤ fn.toNat → fn.toNat ≤ 18 → 1 ≤ mn.toNat → mn.toNat ≤ 60 →
        exec (.timeSet tnCode fn mn) s = .next ((s.setTime ⟨tnCode.toNat + 1, fn.toNat, mn.toNat⟩).returns .none)) ∧
      (fn.toNat = 0 ∨ 18 < fn.toNat ∨ mn.toNat = 0 ∨ 60 < mn.toNat →
        exec (.timeSet tnCode fn mn) s = .next ((s.log (.timeInvalid (tnCode.toNat + 1) fn.toNat mn.toNat)).returns .none))) ∧
  (∀ (mcc : BitVec 10) (mnc : BitVec 14) (cc : BitVec 6) (s : State), s.params.scrambleInit = .default →
      ∃ key : BitVec 32, exec (.scrambleInit mcc mnc cc) s = .next (s.returns (.code key)) ∧
        key.toNat = mcc.toNat * 2 ^ 22 + mnc.toNat * 2 ^ 8 + cc.toNat * 4 + 3)

/-! ### Lower MAC -/

/-- `LMAC_BURST` clears the per-burst state and then runs its class's handler (44 R240). -/
def Obligations.LmacBurstClearsThenRuns : Prop :=
  ∀ (w : Bits) (s : State), w.length = 510 →
    let c := (s.setMac { s.mac with secondSlotStolen := false }).setBurst { s.burst with dissocCount := 0 }
    (∃ t, exec (.lmacSb w) c = .next t ∧ exec (.lmacBurst w .sb) s = .next t) ∧
    (∃ t, exec (.lmacNdb w) c = .next t ∧ exec (.lmacBurst w .ndb) s = .next t) ∧
    (∃ t, exec (.lmacNdbSf w) c = .next t ∧ exec (.lmacBurst w .ndbSf) s = .next t)

/-- `FEC_DECODE_BLOCK` undoes the test encoder for the three block sizes: what was encoded comes back, and nothing is written (44 R246, 95 section 0.3). -/
def Obligations.FecDecodesEncodedBlock : Prop :=
  ∀ p ∈ [(BlockSize.k120, 60), (.k216, 124), (.k432, 268)], ∀ (info : Bits) (key : BitVec 32) (s : State),
    info.length = p.2 → s.params.punct = Params.default.punct →
    exec (.fecDecodeBlock (fecEncode s.params info key p.1) key p.1) s = .next (s.returns (.bits info))

/-- A block whose CRC fails is dropped with its record, and nothing else happens; a block of another length is refused, which is the model's reading of the lengths the rule states (44 R246; log entry 16). -/
def Obligations.FecFailureDropsBlock : Prop :=
  ∀ p ∈ [(BlockSize.k120, 120, 76), (.k216, 216, 140), (.k432, 432, 284)], ∀ (x : Bits) (key : BitVec 32) (s : State),
    (x.length = p.2.1 → crc16Check s.params.crcXorout ((fecBits s.params x key p.1).take p.2.2) = false →
      exec (.fecDecodeBlock x key p.1) s = .next ((s.log (.fecFail p.2.1 p.2.2)).returns .fail)) ∧
    (x.length ≠ p.2.1 → exec (.fecDecodeBlock x key p.1) s = .refused (.outsideDomain "FEC_DECODE_BLOCK"))

/-- A synchronization burst sent by the test encoder is handed over block by block, BSCH first, and the AACH and the second block are read with the key the BSCH has just set (44 R241, R245, R247; 70 R450). -/
def Obligations.SbHandsOverWithFreshKey : Prop :=
  ∀ (pre bsch ts aach sch post : Bits) (s : State), pre.length = 94 → bsch.length = 60 → ts.length = 38 → aach.length = 14 →
    sch.length = 124 → post.length = 12 → s.params.punct = Params.default.punct →
    let key := (handoff bsch .bsch s).cell.scramblingCode
    exec (.lmacSb (pre ++ fecEncode s.params bsch 3 .k120 ++ ts ++ aachEncode s.params aach key ++
      fecEncode s.params sch key .k216 ++ post)) s =
      .next ((handoff sch .schHd (handoff aach .aach (handoff bsch .bsch s))).returns .none)

/-- A normal burst: the AACH first, and then, by the usage it has just set, the raw descrambled block as TCH_S or the decoded block as SCH_F (44 R242, R243). -/
def Obligations.NdbHandsOverAachFirst : Prop :=
  ∀ (pre aach ts post x : Bits) (s : State), pre.length = 14 → aach.length = 14 → ts.length = 22 → post.length = 12 →
    x.length = 432 → s.params.punct = Params.default.punct →
    let key := s.cell.scramblingCode
    let bbk := aachEncode s.params aach key
    let window := fun y : Bits => pre ++ y.take 216 ++ bbk.take 14 ++ ts ++ bbk.drop 14 ++ y.drop 216 ++ post
    let u := handoff aach .aach s
    (u.mac.downlinkUsage = .traffic → 1 ≤ u.time.fn → u.time.fn ≤ 17 →
      exec (.lmacNdb (window (descramble s.params x key))) s = .next ((handoff x .tchS u).returns .none)) ∧
    (u.mac.downlinkUsage ≠ .traffic → ∀ sch : Bits, sch.length = 268 →
      exec (.lmacNdb (window (fecEncode s.params sch key .k432))) s = .next ((handoff sch .schF u).returns .none))

/-- A burst with the second slot stolen: signalling mode gives SCH_HD twice, or a BNCH second in its slot of frame 18; traffic mode gives an STCH, and a second one only if the first stole it, else the second half is reported and ignored (44 R244). -/
def Obligations.NdbSfSplitsHalfSlots : Prop :=
  ∀ (pre aach ts post a b : Bits) (s : State), pre.length = 14 → aach.length = 14 → ts.length = 22 → post.length = 12 →
    a.length = 124 → b.length = 124 → s.params.punct = Params.default.punct →
    let key := s.cell.scramblingCode
    let bbk := aachEncode s.params aach key
    let w := pre ++ fecEncode s.params a key .k216 ++ bbk.take 14 ++ ts ++ bbk.drop 14 ++ fecEncode s.params b key .k216 ++ post
    let u := handoff aach .aach s
    (u.mac.downlinkUsage ≠ .traffic → u.time.fn = 18 → (u.time.mn + u.time.tn) % 4 = 1 →
      exec (.lmacNdbSf w) s = .next ((handoff b .bnch (handoff a .schHd u)).returns .none)) ∧
    (u.mac.downlinkUsage ≠ .traffic → u.time.fn ≠ 18 ∨ (u.time.mn + u.time.tn) % 4 ≠ 1 →
      exec (.lmacNdbSf w) s = .next ((handoff b .schHd (handoff a .schHd u)).returns .none)) ∧
    (u.mac.downlinkUsage = .traffic → (handoff a .stch u).mac.secondSlotStolen = true →
      exec (.lmacNdbSf w) s = .next ((handoff b .stch (handoff a .stch u)).returns .none)) ∧
    (u.mac.downlinkUsage = .traffic → (handoff a .stch u).mac.secondSlotStolen = false →
      exec (.lmacNdbSf w) s = .next (((handoff a .stch u).log (.blockIgnored .bkn2)).returns .none))

/-- The lower MAC on any window, decodable or not: every block is decoded with the code that then stands, and handed over or, where its CRC fails, reported and dropped, and the burst goes on. A failed BSCH leaves the cell, so that the AACH and BKN2 of an SB are still read with the old code; the AACH of an NDB or NDB_SF is handed over before the rest; a failed BKN1 of an NDB_SF in traffic mode leaves BKN2 ignored (44 R241, R242, R244 to R247). -/
def Obligations.BurstHandlersOnAnyWindow : Prop :=
  ∀ (w : Bits) (s : State), w.length = 510 →
    (∃ t a v, HandedOver (w.slice 94 214) 3 .k120 .bsch s t ∧
      (exec (.fecDecodeBlock (w.slice 94 214) 3 .k120) s = .next ((s.log (.fecFail 120 76)).returns .fail) → t.cell = s.cell) ∧
      exec (.aachDecodeBlock (w.slice 252 282) t.cell.scramblingCode) t = .next (t.returns (.bits a)) ∧
      HandedOver (w.slice 282 498) (handoff a .aach t).cell.scramblingCode .k216 .schHd (handoff a .aach t) v ∧
      exec (.lmacSb w) s = .next (v.returns .none)) ∧
    (∃ a, exec (.aachDecodeBlock (w.slice 230 244 ++ w.slice 266 282) s.cell.scramblingCode) s = .next (s.returns (.bits a)) ∧
      let u := handoff a .aach s
      let x := w.slice 14 230 ++ w.slice 282 498
      u.cell = s.cell ∧
      (u.mac.downlinkUsage = .traffic ∧ 1 ≤ u.time.fn ∧ u.time.fn ≤ 17 → ∃ y,
        exec (.descramble x u.cell.scramblingCode) u = .next (u.returns (.bits y)) ∧
        exec (.lmacNdb w) s = .next ((handoff y .tchS u).returns .none)) ∧
      (¬ (u.mac.downlinkUsage = .traffic ∧ 1 ≤ u.time.fn ∧ u.time.fn ≤ 17) → ∃ v,
        HandedOver x u.cell.scramblingCode .k432 .schF u v ∧ exec (.lmacNdb w) s = .next (v.returns .none)) ∧
      (u.mac.downlinkUsage ≠ .traffic → ∃ t v,
        HandedOver (w.slice 14 230) u.cell.scramblingCode .k216 .schHd u t ∧
        HandedOver (w.slice 282 498) t.cell.scramblingCode .k216
          (if t.time.fn = 18 ∧ (t.time.mn + t.time.tn) % 4 = 1 then .bnch else .schHd) t v ∧
        exec (.lmacNdbSf w) s = .next (v.returns .none)) ∧
      (u.mac.downlinkUsage = .traffic → ∃ t, HandedOver (w.slice 14 230) u.cell.scramblingCode .k216 .stch u t ∧
        (exec (.fecDecodeBlock (w.slice 14 230) u.cell.scramblingCode .k216) u = .next ((u.log (.fecFail 216 140)).returns .fail) →
          t.mac.secondSlotStolen = s.mac.secondSlotStolen) ∧
        (t.mac.secondSlotStolen = true → ∃ v,
          HandedOver (w.slice 282 498) t.cell.scramblingCode .k216 .stch t v ∧ exec (.lmacNdbSf w) s = .next (v.returns .none)) ∧
        (t.mac.secondSlotStolen = false → exec (.lmacNdbSf w) s = .next ((t.log (.blockIgnored .bkn2)).returns .none))))

/-! ### Upper MAC -/

/-- A hand-over writes `Mac.logical_channel` and then runs `UMAC_DISPATCH`, which leaves the channel as written (44 R247, 10 R30). No other operation than one that runs the lower MAC, and reset, writes the channel. -/
def Obligations.HandoffSetsChannel : Prop :=
  (∀ (blk : Bits) (ch : LogicalChannel) (s : State),
      exec (.umacDispatch blk ch) (s.setMac { s.mac with logicalChannel := ch }) = .next ((handoff blk ch s).returns .none) ∧
      (handoff blk ch s).mac.logicalChannel = ch) ∧
  (∀ (i : Instr) (s t : State), exec i s = .next t →
      match i with
      | .rxSymbol _ | .processBurst _ | .lmacBurst .. | .lmacSb _ | .lmacNdb _ | .lmacNdbSf _ | .burstSb .. | .burstNdb ..
      | .burstNdbSf .. | .reset => True
      | _ => t.mac.logicalChannel = s.mac.logicalChannel)


/-- `UMAC_DISPATCH` runs the dissector of its channel; the three channels that are never handed over are reported and ignored (45 R280). An AACH too short for its two fields is abandoned, which only the test entry can cause: the rule takes 14 bits only, and this is the model's reading of 45 R297 (log entry 22). -/
def Obligations.UmacDispatchRoutes : Prop :=
  ∀ (blk : Bits) (s : State),
    (8 ≤ blk.length → ∃ t, exec (.dissectAach blk) s = .next t ∧ exec (.umacDispatch blk .aach) s = .next t) ∧
    (blk.length < 2 → exec (.umacDispatch blk .aach) s = .next ((s.log (.outOfRange 0 2 blk.length)).returns .none)) ∧
    (2 ≤ blk.length → blk.length < 8 →
      exec (.umacDispatch blk .aach) s = .next ((s.log (.outOfRange 2 6 blk.length)).returns .none)) ∧
    (∃ t, exec (.dissectBsch blk) s = .next t ∧ exec (.umacDispatch blk .bsch) s = .next t) ∧
    (∃ t, exec (.emitTchS blk) s = .next t ∧ exec (.umacDispatch blk .tchS) s = .next t) ∧
    (∀ ch : SigChannel, ∃ t, exec (.dissociationLoop blk ch) s = .next t ∧ exec (.umacDispatch blk ch.toLogical) s = .next t) ∧
    (∀ ch ∈ [LogicalChannel.tch, .blch, .unknown],
      exec (.umacDispatch blk ch) s = .next ((s.log (.blockIgnored (.channel ch))).returns .none))

/-- The AACH usage map, as `DISSECT_AACH` and as the seven rows: frame 18 and header 00 give common control, else the first field decides, and only traffic writes the marker; the block is emitted (30 R104, 45 R282). That a row, as an operation, runs `DISSECT_AACH` is the model's choice (log entry 17). -/
def Obligations.AachUsageMap : Prop :=
  ∀ (header : BitVec 2) (field1 tail : BitVec 6) (s : State),
    let a := bvToBits header ++ bvToBits field1 ++ bvToBits tail
    let out := fun (usage : DownlinkUsage) (marker : BitVec 6) =>
      ((s.setMac { s.mac with downlinkUsage := usage, downlinkUsageMarker := marker }).push
        (.emission ⟨.aach, a, s.addr, s.time⟩)).returns .none
    let old := s.mac.downlinkUsageMarker
    (s.time.fn = 18 → exec (.dissectAach a) s = .next (out .commonControl old) ∧
      exec (.aachFrame18 header field1 tail) s = .next (out .commonControl old)) ∧
    (s.time.fn ≠ 18 → header = 0 → exec (.dissectAach a) s = .next (out .commonControl old) ∧
      exec (.aachHeader00 field1 tail) s = .next (out .commonControl old)) ∧
    (s.time.fn ≠ 18 → header ≠ 0 → field1 = 0 → exec (.dissectAach a) s = .next (out .unallocated old) ∧
      exec (.aachUnallocated header tail) s = .next (out .unallocated old)) ∧
    (s.time.fn ≠ 18 → header ≠ 0 → field1 = 1 → exec (.dissectAach a) s = .next (out .assignedControl old) ∧
      exec (.aachAssigned header tail) s = .next (out .assignedControl old)) ∧
    (s.time.fn ≠ 18 → header ≠ 0 → field1 = 2 → exec (.dissectAach a) s = .next (out .commonControl old) ∧
      exec (.aachCommon header tail) s = .next (out .commonControl old)) ∧
    (s.time.fn ≠ 18 → header ≠ 0 → field1 = 3 → exec (.dissectAach a) s = .next (out .reserved old) ∧
      exec (.aachReserved header tail) s = .next (out .reserved old)) ∧
    (s.time.fn ≠ 18 → header ≠ 0 → 4 ≤ field1.toNat → exec (.dissectAach a) s = .next (out .traffic field1) ∧
      exec (.aachTraffic header field1 tail) s = .next (out .traffic field1))

/-- A BSCH writes the cell's identity, derives the code, sets the time if it is in range, is reported and emits its last 29 bits; under 60 bits it is reported and dropped (45 R283). -/
def Obligations.BschUpdatesCell : Prop :=
  ∀ (sys : BitVec 4) (cc : BitVec 6) (tn : BitVec 2) (fn : BitVec 5) (mn : BitVec 6) (x : BitVec 8) (mcc : BitVec 10)
    (mnc : BitVec 14) (y : BitVec 5) (s : State),
    let b := bvToBits sys ++ bvToBits cc ++ bvToBits tn ++ bvToBits fn ++ bvToBits mn ++ bvToBits x ++ bvToBits mcc ++
      bvToBits mnc ++ bvToBits y
    let c := s.setCell ⟨mcc, mnc, cc, scrambleInit s.params mcc mnc cc, s.cell.downlinkFreqHz⟩
    let sync := LogRecord.macSync s.burst.type cc (tn.toNat + 1) fn.toNat mn.toNat mcc mnc
    let t := (⟨tn.toNat + 1, fn.toNat, mn.toNat⟩ : TetraTime)
    let sdu := bvToBits mcc ++ bvToBits mnc ++ bvToBits y
    (t.wf = true → exec (.dissectBsch b) s =
      .next ((((c.setTime t).log sync).push (.emission ⟨.bsch, sdu, s.addr, t⟩)).returns .none)) ∧
    (t.wf = false → exec (.dissectBsch b) s =
      .next ((((c.log (.timeInvalid (tn.toNat + 1) fn.toNat mn.toNat)).log sync).push
        (.emission ⟨.bsch, sdu, s.addr, s.time⟩)).returns .none)) ∧
    (∀ v : Bits, v.length < 60 → exec (.dissectBsch v) s = .next ((s.log (.shortPdu .bsch v.length)).returns .none))

/-- A SYSINFO of at least 82 bits sets the downlink frequency and emits the bits from 82 on, 42 at most; a working PDU of any shorter length is reported and dropped (45 R284). The row SYSINFO is the same; that it runs the dissection is the model's choice (log entry 17). -/
def Obligations.SysinfoSetsFrequency : Prop :=
  (∀ (mc : BitVec 12) (band : BitVec 4) (off : BitVec 2) (rest : Bits) (ch : SigChannel) (s : State),
      let body := bvToBits mc ++ bvToBits band ++ bvToBits off ++ rest
      let p := bvToBits 0b1000#4 ++ body
      let f : Int := band.toNat * 100000000 + mc.toNat * 25000 + [0, 6250, -6250, 12500].getD off.toNat 0
      let t := ((s.setCell { s.cell with downlinkFreqHz := f }).emit ch.toLogical ((p.drop 82).take 42)).returns
        (.unit ⟨.sysinfo, p, some 124⟩)
      82 ≤ p.length → exec (.dissectSysinfo p ch) s = .next t ∧ exec (.sysinfo body ch) s = .next t) ∧
  (∀ (p body : Bits) (ch : SigChannel) (s : State),
      let short := fun v : Bits => (s.log (.shortPdu .sysinfo v.length)).returns (.unit ⟨.short, v, none⟩)
      (p.length < 82 → exec (.dissectSysinfo p ch) s = .next (short p)) ∧
      (body.length < 78 → exec (.sysinfo body ch) s = .next (short (bvToBits 0b1000#4 ++ body))))

/-- The length indications, as `DECODE_LENGTH` and as the eighteen rows: 0 for the four reserved codes, else the code's own value; nothing is written (45 R285). That a row, as an operation, returns what `DECODE_LENGTH` gives is the model's choice (log entry 17). -/
def Obligations.LengthIndications : Prop :=
  ∀ s : State,
    (∀ li : BitVec 6, exec (.decodeLength li) s = .next (s.returns (.number
      (if li.toNat = 0 ∨ li.toNat = 59 ∨ li.toNat = 60 ∨ li.toNat = 61 then 0 else li.toNat)))) ∧
    (∀ i n, (i, n) ∈ [(Instr.liReserved0, 0), (.liOctets1, 1), (.liOctets18, 18), (.liOctets19, 19), (.liOctets58, 58),
        (.liReserved59, 0), (.liSecondHalfStolen, 62), (.liStartFragmenting, 63)] →
      exec i s = .next (s.returns (.number n))) ∧
    (∀ lo : BitVec 1, exec (.liOctets2to3 lo) s = .next (s.returns (.number (2 + lo.toNat))) ∧
      exec (.liOctets16to17 lo) s = .next (s.returns (.number (16 + lo.toNat))) ∧
      exec (.liOctets56to57 lo) s = .next (s.returns (.number (56 + lo.toNat))) ∧
      exec (.liReserved60to61 lo) s = .next (s.returns (.number 0))) ∧
    (∀ lo : BitVec 2, exec (.liOctets4to7 lo) s = .next (s.returns (.number (4 + lo.toNat))) ∧
      exec (.liOctets20to23 lo) s = .next (s.returns (.number (20 + lo.toNat)))) ∧
    (∀ lo : BitVec 3, exec (.liOctets8to15 lo) s = .next (s.returns (.number (8 + lo.toNat))) ∧
      exec (.liOctets24to31 lo) s = .next (s.returns (.number (24 + lo.toNat))) ∧
      exec (.liOctets48to55 lo) s = .next (s.returns (.number (48 + lo.toNat)))) ∧
    (∀ lo : BitVec 4, exec (.liOctets32to47 lo) s = .next (s.returns (.number (32 + lo.toNat))))

/-- A MAC-RESOURCE of any address type, with or without each optional element, with or without fill bits: the address is committed, and then the length indication starts a reassembly, is reported as reserved, or emits the TM-SDU, marking the second slot stolen for code 62. `flag` is the position of the channel-allocation flag and `q` the end of the header. The row MAC_RESOURCE is the same (45 R286); that it runs the dissection is the model's choice (log entry 17). -/
def Obligations.MacResourceCommits : Prop :=
  ∀ (fill grant access : BitVec 1) (enc : BitVec 2) (li um : BitVec 6) (ssi ussi smi : BitVec 24) (el : BitVec 10) (pc : BitVec 4)
    (sg : BitVec 8) (k q : Nat) (post g : Bits) (ch : SigChannel) (s : State),
    ∀ ty ∈ [((1 : BitVec 3), bvToBits ssi, (⟨1, ssi, 0, 0, 0, 0, enc⟩ : MacAddress)), (2, bvToBits el, ⟨2, 0, 0, 0, el, 0, enc⟩),
      (3, bvToBits ussi, ⟨3, 0, ussi, 0, 0, 0, enc⟩), (4, bvToBits smi, ⟨4, 0, 0, smi, 0, 0, enc⟩),
      (5, bvToBits ssi ++ bvToBits el, ⟨5, ssi, 0, 0, el, 0, enc⟩), (6, bvToBits ssi ++ bvToBits um, ⟨6, ssi, 0, 0, 0, um, enc⟩),
      (7, bvToBits smi ++ bvToBits el, ⟨7, 0, 0, smi, el, 0, enc⟩)],
    ∀ power ∈ [[false], true :: bvToBits pc], ∀ slots ∈ [[false], true :: bvToBits sg],
    let head := [false, false] ++ bvToBits fill ++ bvToBits grant ++ bvToBits enc ++ bvToBits access ++ bvToBits li ++ bvToBits ty.1 ++
      ty.2.1 ++ power ++ slots
    let p := head ++ post
    let flag := head.length
    let t := if ty.1 = 6 then (s.setAddr ty.2.2).setMarkerEncryption um enc else s.setAddr ty.2.2
    ((fill = 0 ∨ s.keepFillBits = true) ∧ g = p ∨ fill = 1 ∧ s.keepFillBits = false ∧ g = appendFillBits p k) →
    (post.head? = some false ∧ q = flag + 1 ∨
      post.head? = some true ∧ exec (.parseChanAlloc p (flag + 1)) s = .next (s.returns (.position q))) →
    ∀ i ∈ [Instr.dissectMacResource g ch, .macResource (fill ++ grant) (g.drop 4) ch],
    (li.toNat = 63 → exec i s =
      .next ((fragAppend (p.drop q) ty.2.2 (fragStart ty.2.2 s.time t)).returns (.unit ⟨.fragStart, p, none⟩))) ∧
    (li.toNat = 0 ∨ li.toNat = 59 ∨ li.toNat = 60 ∨ li.toNat = 61 → exec i s =
      .next ((t.log (.reservedLength li)).returns (.unit ⟨.reservedLength, p, none⟩))) ∧
    (li.toNat = 62 → exec i s =
      .next (((t.setMac { s.mac with secondSlotStolen := true }).emit ch.toLogical ((p.drop q).take (496 - q))).returns
        (.unit ⟨.resource, p, some 496⟩))) ∧
    (1 ≤ li.toNat → li.toNat ≤ 58 → exec i s =
      .next ((t.emit ch.toLogical ((p.drop q).take (8 * li.toNat - q))).returns (.unit ⟨.resource, p, some (8 * li.toNat)⟩)))

/-- `PARSE_ADDRESS` and the address-type rows read the fields their type carries, in order, at any position; every other field is 0; no state is written (45 R288, 30 R90). That a row, as an operation, reads the fields of its type is the model's choice (log entry 17). -/
def Obligations.AddressFields : Prop :=
  ∀ (pre post : Bits) (ssi ussi smi : BitVec 24) (el : BitVec 10) (um : BitVec 6) (s : State),
    ∀ k ∈ [((1 : BitVec 3), bvToBits ssi, (⟨1, ssi, 0, 0, 0, 0, 0⟩ : MacAddress), Instr.atSsi),
      (2, bvToBits el, ⟨2, 0, 0, 0, el, 0, 0⟩, .atEventLabel),
      (3, bvToBits ussi, ⟨3, 0, ussi, 0, 0, 0, 0⟩, .atUssi),
      (4, bvToBits smi, ⟨4, 0, 0, smi, 0, 0, 0⟩, .atSmi),
      (5, bvToBits ssi ++ bvToBits el, ⟨5, ssi, 0, 0, el, 0, 0⟩, .atSsiEventLabel),
      (6, bvToBits ssi ++ bvToBits um, ⟨6, ssi, 0, 0, 0, um, 0⟩, .atSsiUsageMarker),
      (7, bvToBits smi ++ bvToBits el, ⟨7, 0, 0, smi, el, 0, 0⟩, .atSmiEventLabel)],
    exec (.parseAddress (pre ++ k.2.1 ++ post) pre.length k.1) s =
        .next (s.returns (.address k.2.2.1 (pre.length + k.2.1.length))) ∧
    exec (k.2.2.2 (pre ++ k.2.1 ++ post) pre.length) s =
        .next (s.returns (.address k.2.2.1 (pre.length + k.2.1.length)))

/-- Stripping fill bits undoes appending them, and leaves nothing of an all-zero PDU (45 R287). -/
def Obligations.StripUndoesFillBits : Prop :=
  ∀ (x : Bits) (k : Nat) (s : State),
    exec (.stripFillBits (appendFillBits x k)) s = .next (s.returns (.bits x)) ∧
    exec (.stripFillBits (List.replicate k false)) s = .next (s.returns (.bits []))

/-- The channel-allocation element, field by field: the extended-carrier, frame-18 and augmented parts only where their conditions hold; `PARSE_CHAN_ALLOC` gives the position behind it, 25 to 115 bits on, and writes no state (45 R289, 30 R91, R92). -/
def Obligations.ChannelAllocationElement : Prop :=
  ∀ (pre post : Bits) (alloc : BitVec 6) (ulDl mon f18 nap : BitVec 2) (x14 : BitVec 14) (carrier : BitVec 10) (x26 : BitVec 26)
    (x11 : BitVec 11) (x4 : BitVec 4) (x16 y16 : BitVec 16) (last : BitVec 1) (s : State),
    ∀ ext ∈ [[false], true :: bvToBits carrier], ∀ opt1 ∈ [[false], true :: bvToBits x16], ∀ opt2 ∈ [[false], true :: bvToBits y16],
    let augmented := bvToBits x26 ++ bvToBits nap ++ (if nap = 1 then bvToBits x11 else []) ++ bvToBits x4 ++ opt1 ++ opt2 ++
      bvToBits last
    let element := bvToBits alloc ++ bvToBits ulDl ++ bvToBits x14 ++ ext ++ bvToBits mon ++
      (if mon = 0 ∧ s.time.fn = 18 then bvToBits f18 else []) ++ (if ulDl = 0 then augmented else [])
    exec (.parseChanAlloc (pre ++ element ++ post) pre.length) s =
        .next (s.returns (.position (pre.length + element.length))) ∧ 25 ≤ element.length ∧ element.length ≤ 115

/-- A MAC-FRAG appends everything after its fill-bit flag to the reassembly under the current address, without its fill bits where the flag is set and stripping is enabled (where the flag itself is the last 1, nothing is left to append). The row MAC_FRAG is the same (45 R290, R287); that it runs the dissection is the model's choice (log entry 17). -/
def Obligations.MacFragAppends : Prop :=
  ∀ (fill : BitVec 1) (v x : Bits) (k : Nat) (ch : SigChannel) (s : State),
    (fill = 0 ∨ s.keepFillBits = true →
      ∀ i ∈ [Instr.dissectMacFrag (bvToBits 0b010#3 ++ bvToBits fill ++ v) ch, .macFrag fill v ch],
      exec i s = .next ((fragAppend v s.addr s).returns (.unit ⟨.frag, bvToBits 0b010#3 ++ bvToBits fill ++ v, none⟩))) ∧
    (s.keepFillBits = false →
      ∀ i ∈ [Instr.dissectMacFrag (bvToBits 0b0101#4 ++ appendFillBits x k) ch, .macFrag 1 (appendFillBits x k) ch],
      exec i s = .next ((fragAppend x s.addr s).returns (.unit ⟨.frag, bvToBits 0b0101#4 ++ x, none⟩))) ∧
    (s.keepFillBits = false →
      ∀ i ∈ [Instr.dissectMacFrag (bvToBits 0b0101#4 ++ List.replicate k false) ch, .macFrag 1 (List.replicate k false) ch],
      exec i s = .next ((fragAppend [] s.addr s).returns (.unit ⟨.frag, bvToBits 0b010#3, none⟩)))

/-- A MAC-END with or without each optional element, with or without fill bits: with a legal length indication it appends the rest, emits the reassembly under the current address, stops the slot and records the encryption mode; with an illegal one it is only reported. The row MAC_END is the same (45 R291); that it runs the dissection is the model's choice (log entry 17). -/
def Obligations.MacEndEmitsReassembly : Prop :=
  ∀ (fill grant : BitVec 1) (li : BitVec 6) (sg : BitVec 8) (k q : Nat) (post g : Bits) (ch : SigChannel) (s : State),
    ∀ slots ∈ [[false], true :: bvToBits sg],
    let head := [false, true, true] ++ bvToBits fill ++ bvToBits grant ++ bvToBits li ++ slots
    let p := head ++ post
    let flag := head.length
    let a := fragAppend (p.drop q) s.addr s
    ((fill = 0 ∨ s.keepFillBits = true) ∧ g = p ∨ fill = 1 ∧ s.keepFillBits = false ∧ g = appendFillBits p k) →
    ∀ i ∈ [Instr.dissectMacEnd g ch, .macEnd fill (g.drop 4) ch],
    ((post.head? = some false ∧ q = flag + 1 ∨
        post.head? = some true ∧ exec (.parseChanAlloc p (flag + 1)) s = .next (s.returns (.position q))) →
      2 ≤ li.toNat → li.toNat ≤ 34 →
      (a.frag.stopped = false → exec i s =
        .next ((((a.emit ch.toLogical a.frag.buffer).setFrag { a.frag with buffer := [], stopped := true }).setMarkerEncryption
          s.addr.usageMarker s.addr.encryptionMode).returns (.unit ⟨.fragEnd, p, none⟩))) ∧
      (a.frag.stopped = true → exec i s =
        .next (((a.setFrag { a.frag with buffer := [] }).setMarkerEncryption
          s.addr.usageMarker s.addr.encryptionMode).returns (.unit ⟨.fragEnd, p, none⟩)))) ∧
    (li.toNat < 2 ∨ 34 < li.toNat → exec i s = .next ((s.log (.endLength li)).returns (.unit ⟨.dropped, p, none⟩)))

/-- A MAC-D-BLCK, with or without the slot-granting element, with or without fill bits, writes the encryption mode and the event label of the address, the other fields unchanged, and emits the rest on SCH_F. The row MAC_D_BLCK is the same (45 R292); that it runs the dissection is the model's choice (log entry 17). -/
def Obligations.MacDBlckEmitsRemainder : Prop :=
  ∀ (x fill nap : BitVec 1) (enc : BitVec 2) (el : BitVec 10) (sg : BitVec 8) (k : Nat) (sdu g : Bits) (s : State),
    ∀ slots ∈ [[false], true :: bvToBits sg],
    let p := [true, true] ++ bvToBits x ++ bvToBits fill ++ bvToBits enc ++ bvToBits el ++ bvToBits nap ++ slots ++ sdu
    let t := ((s.setAddr { s.addr with encryptionMode := enc, eventLabel := el }).emit .schF sdu).returns
      (.unit ⟨.dBlck, p, none⟩)
    ((fill = 0 ∨ s.keepFillBits = true) ∧ g = p ∨ fill = 1 ∧ s.keepFillBits = false ∧ g = appendFillBits p k) →
    exec (.dissectMacDBlck g) s = .next t ∧ exec (.macDBlck (x ++ fill) (g.drop 4)) s = .next t

/-- ACCESS-DEFINE has no effect; a reserved PDU is only reported; a type-11 PDU outside SCH_F is reserved; the TCH_S passthrough emits its block; a MAC-RESOURCE with address type 000, with or without fill bits, is a NULL PDU: no state is written, nothing is emitted, and its length is -1 (45 R286, R293, R295, R296). The rows ACCESS_DEFINE, RESERVED_10_1X, RESERVED_11, MAC_RESOURCE and AT_NULL are the same; what a row runs as an operation is the model's choice (log entry 17). -/
def Obligations.UnitsWithoutSdu : Prop :=
  (∀ (p rest : Bits) (ch : SigChannel) (why : ReservedWhy) (lo1 : BitVec 1) (lo2 : BitVec 2) (s : State),
      exec (.dissectAccessDefine p ch) s = .next (s.returns (.unit ⟨.accessDefine, p, none⟩)) ∧
      exec (.accessDefine rest ch) s = .next (s.returns (.unit ⟨.accessDefine, bvToBits 0b1001#4 ++ rest, none⟩)) ∧
      exec (.ignoreReserved p ch why) s = .next ((s.log (.reservedPdu why)).returns (.unit ⟨.ignored, p, none⟩)) ∧
      exec (.reserved10x lo1 rest ch) s = .next ((s.log (.reservedPdu (.subtype 2 (1#1 ++ lo1)))).returns
        (.unit ⟨.ignored, bvToBits (0b101#3 ++ lo1) ++ rest, none⟩)) ∧
      (ch ≠ .schF → exec (.reserved11 lo2 rest ch) s = .next ((s.log (.reservedPdu (.channel 3 ch))).returns
        (.unit ⟨.ignored, bvToBits (0b11#2 ++ lo2) ++ rest, none⟩))) ∧
      exec (.emitTchS p) s = .next ((s.emit .tchS p).returns .none)) ∧
  (∀ (fill grant access : BitVec 1) (enc : BitVec 2) (li : BitVec 6) (k : Nat) (rest g : Bits) (ch : SigChannel) (s : State),
      let p := [false, false] ++ bvToBits fill ++ bvToBits grant ++ bvToBits enc ++ bvToBits access ++ bvToBits li ++
        bvToBits 0b000#3 ++ rest
      let t := s.returns (.unit ⟨.null, p, some (-1)⟩)
      ((fill = 0 ∨ s.keepFillBits = true) ∧ g = p ∨ fill = 1 ∧ s.keepFillBits = false ∧ g = appendFillBits p k) →
      exec (.dissectMacResource g ch) s = .next t ∧ exec (.macResource (fill ++ grant) (g.drop 4) ch) s = .next t ∧
        exec (.atNull p) s = .next t)

/-- A dissection unit that runs past the end of its PDU is abandoned: no state is written, nothing is emitted, and the read is reported (45 R297, 60 R404). That a unit run as an operation by itself catches its own error and answers it is the model's choice (log entry 15). -/
def Obligations.AbandonedUnitWritesNothing : Prop :=
  ∀ (i : Instr) (e : OutOfRange) (s t : State),
    (match i with
      | .dissectAach _ | .dissectBsch _ | .dissectSysinfo .. | .dissectMacResource .. | .dissectMacFrag .. | .dissectMacEnd ..
      | .dissectMacDBlck _ | .macResource .. | .macFrag .. | .macEnd .. | .macDBlck .. | .sysinfo .. => True
      | _ => False) →
    exec i s = .next t → t.result = .raised e → t = (s.log (.outOfRange e.pos e.n e.size)).returns (.raised e)

/-- The dissociation loop, one unit at a time: it ends with an abandoned unit, with a unit that is not a MAC-RESOURCE of known length, or with less than 40 bits left; else it goes on behind that PDU with one restart more, and the 33rd restart is reported instead (45 R294). -/
def Obligations.DissociationGoesUnitByUnit : Prop :=
  ∀ (blk : Bits) (ch : SigChannel) (s : State), s.burst.dissocCount ≤ 32 →
    (∀ e, dissectOne blk ch s = .error e →
      exec (.dissociationLoop blk ch) s = .next ((s.log (.outOfRange e.pos e.n e.size)).returns .none)) ∧
    (∀ r u, dissectOne blk ch s = .ok (r, u) → r.kind ≠ .resource →
      exec (.dissociationLoop blk ch) s = .next (u.returns .none)) ∧
    (∀ r u n, dissectOne blk ch s = .ok (r, u) → r.kind = .resource → r.sizeInMac = some (n : Nat) → r.pdu.length < n + 40 →
      exec (.dissociationLoop blk ch) s = .next (u.returns .none)) ∧
    (∀ r u n, dissectOne blk ch s = .ok (r, u) → r.kind = .resource → r.sizeInMac = some (n : Nat) → n + 40 ≤ r.pdu.length →
      s.burst.dissocCount < 32 →
      ∃ t, exec (.dissociationLoop (r.pdu.drop n) ch) (u.setBurst { u.burst with dissocCount := s.burst.dissocCount + 1 }) =
          .next t ∧ exec (.dissociationLoop blk ch) s = .next t) ∧
    (∀ r u n, dissectOne blk ch s = .ok (r, u) → r.kind = .resource → r.sizeInMac = some (n : Nat) → n + 40 ≤ r.pdu.length →
      s.burst.dissocCount = 32 →
      exec (.dissociationLoop blk ch) s = .next ((u.log (.dissocOverflow ch)).returns .none))

/-- One block cannot reach the cap: from a count of 0, a block of at most 268 bits restarts at most 28 times, one of at most 124 bits at most 10 times, and neither reports an overflow (45 R294). -/
def Obligations.OneBlockNeverOverflows : Prop :=
  ∀ (blk : Bits) (ch : SigChannel) (s : State), s.burst.dissocCount = 0 → blk.length ≤ 268 →
    ∃ t new, exec (.dissociationLoop blk ch) s = .next t ∧ t.burst.dissocCount ≤ 28 ∧ (blk.length ≤ 124 → t.burst.dissocCount ≤ 10) ∧ t.output = s.output ++ new ∧
      ∀ c, Output.log (.dissocOverflow c) ∉ new

/-! ### Defragmenter -/

/-- `FRAG_START` reports a reassembly that held bits, and starts a new one with everything taken from the address and the time. `FRAG_APPEND`: a stopped slot only reports; another SSI or a full buffer stops the slot and reports; otherwise the bits are appended and counted, the count saturating. `FRAG_GET_SDU` gives the buffer, or nothing from a stopped slot, with the given address's mode and marker. `FRAG_STOP` clears and stops. Nothing else is written (46 R360 to R364). The length in an overflow's record is the one the buffer would have reached, as 60 R401 and vector V11.6 have it and not as the pseudocode's order would give it: the model's reading (log entry 14). -/
def Obligations.DefragmenterOperations : Prop :=
  (∀ (a : MacAddress) (t : TetraTime) (s : State),
      let f : FragState := ⟨false, a, a.ssi, t, 0, [], a.encryptionMode, a.usageMarker⟩
      (s.frag.buffer = [] → exec (.fragStart a t) s = .next ((s.setFrag f).returns .none)) ∧
      (s.frag.buffer ≠ [] → exec (.fragStart a t) s = .next (((s.log (.defragFail s.frag.ssi)).setFrag f).returns .none))) ∧
  (∀ (v : Bits) (a : MacAddress) (s : State),
      let stopped : FragState := { s.frag with buffer := [], stopped := true }
      (s.frag.stopped = true → exec (.fragAppend v a) s = .next ((s.log (.defragStopped a.ssi)).returns .none)) ∧
      (s.frag.stopped = false → a.ssi ≠ s.frag.ssi → exec (.fragAppend v a) s =
        .next (((s.setFrag stopped).log (.defragSsiMismatch s.frag.ssi a.ssi)).returns .none)) ∧
      (s.frag.stopped = false → a.ssi = s.frag.ssi → s.params.fragCap < s.frag.buffer.length + v.length →
        exec (.fragAppend v a) s =
          .next (((s.setFrag stopped).log (.defragOverflow (s.frag.buffer.length + v.length))).returns .none)) ∧
      (s.frag.stopped = false → a.ssi = s.frag.ssi → s.frag.buffer.length + v.length ≤ s.params.fragCap →
        exec (.fragAppend v a) s = .next ((s.setFrag { s.frag with
          buffer := s.frag.buffer ++ v
          fragmentCount := if s.frag.fragmentCount < 65535 then s.frag.fragmentCount + 1 else 65535 }).returns .none))) ∧
  (∀ (a : MacAddress) (s : State),
      (s.frag.stopped = true → exec (.fragGetSdu a) s = .next (s.returns (.sdu [] a.encryptionMode a.usageMarker))) ∧
      (s.frag.stopped = false →
        exec (.fragGetSdu a) s = .next (s.returns (.sdu s.frag.buffer a.encryptionMode a.usageMarker))) ∧
      exec .fragStop s = .next ((s.setFrag { s.frag with buffer := [], stopped := true }).returns .none))

/-- The defragmenter's contract: started and fed any fragments of the same SSI within its capacity, it gives their concatenation with the encryption mode of the address it is asked under (46 R361 to R363; 95 P7). -/
def Obligations.ReassemblyIsConcatenation : Prop :=
  ∀ (a b : MacAddress) (t : TetraTime) (fs : List Bits) (s : State), fs.flatten.length ≤ s.params.fragCap →
    exec (.fragGetSdu b) (fs.foldl (fun u f => fragAppend f a u) (fragStart a t s)) =
      .next ((fs.foldl (fun u f => fragAppend f a u) (fragStart a t s)).returns
        (.sdu fs.flatten b.encryptionMode b.usageMarker))
end

