-- ==== Sys2Proof/Laws/State.lean ====
section
/-! SUPPORT. One lemma per field of the state and per update: what the update leaves in the field. -/

namespace Sys2Proof.Machine

variable (s : State)

@[simp] theorem State.setSync_sync (x : SyncState) : (s.setSync x).sync = x := rfl
@[simp] theorem State.setSync_time (x : SyncState) : (s.setSync x).time = s.time := rfl
@[simp] theorem State.setSync_cell (x : SyncState) : (s.setSync x).cell = s.cell := rfl
@[simp] theorem State.setSync_mac (x : SyncState) : (s.setSync x).mac = s.mac := rfl
@[simp] theorem State.setSync_addr (x : SyncState) : (s.setSync x).addr = s.addr := rfl
@[simp] theorem State.setSync_umEnc (x : SyncState) : (s.setSync x).umEnc = s.umEnc := rfl
@[simp] theorem State.setSync_frag (x : SyncState) : (s.setSync x).frag = s.frag := rfl
@[simp] theorem State.setSync_burst (x : SyncState) : (s.setSync x).burst = s.burst := rfl
@[simp] theorem State.setSync_halted (x : SyncState) : (s.setSync x).halted = s.halted := rfl
@[simp] theorem State.setSync_keepFillBits (x : SyncState) : (s.setSync x).keepFillBits = s.keepFillBits := rfl
@[simp] theorem State.setSync_packMode (x : SyncState) : (s.setSync x).packMode = s.packMode := rfl
@[simp] theorem State.setSync_params (x : SyncState) : (s.setSync x).params = s.params := rfl
@[simp] theorem State.setSync_output (x : SyncState) : (s.setSync x).output = s.output := rfl
@[simp] theorem State.setSync_env (x : SyncState) : (s.setSync x).env = s.env := rfl
@[simp] theorem State.setSync_frameFound (x : SyncState) : (s.setSync x).frameFound = s.frameFound := rfl
@[simp] theorem State.setSync_ops (x : SyncState) : (s.setSync x).ops = s.ops := rfl
@[simp] theorem State.setSync_result (x : SyncState) : (s.setSync x).result = s.result := rfl

@[simp] theorem State.setTime_sync (x : TetraTime) : (s.setTime x).sync = s.sync := rfl
@[simp] theorem State.setTime_time (x : TetraTime) : (s.setTime x).time = x := rfl
@[simp] theorem State.setTime_cell (x : TetraTime) : (s.setTime x).cell = s.cell := rfl
@[simp] theorem State.setTime_mac (x : TetraTime) : (s.setTime x).mac = s.mac := rfl
@[simp] theorem State.setTime_addr (x : TetraTime) : (s.setTime x).addr = s.addr := rfl
@[simp] theorem State.setTime_umEnc (x : TetraTime) : (s.setTime x).umEnc = s.umEnc := rfl
@[simp] theorem State.setTime_frag (x : TetraTime) : (s.setTime x).frag = s.frag := rfl
@[simp] theorem State.setTime_burst (x : TetraTime) : (s.setTime x).burst = s.burst := rfl
@[simp] theorem State.setTime_halted (x : TetraTime) : (s.setTime x).halted = s.halted := rfl
@[simp] theorem State.setTime_keepFillBits (x : TetraTime) : (s.setTime x).keepFillBits = s.keepFillBits := rfl
@[simp] theorem State.setTime_packMode (x : TetraTime) : (s.setTime x).packMode = s.packMode := rfl
@[simp] theorem State.setTime_params (x : TetraTime) : (s.setTime x).params = s.params := rfl
@[simp] theorem State.setTime_output (x : TetraTime) : (s.setTime x).output = s.output := rfl
@[simp] theorem State.setTime_env (x : TetraTime) : (s.setTime x).env = s.env := rfl
@[simp] theorem State.setTime_frameFound (x : TetraTime) : (s.setTime x).frameFound = s.frameFound := rfl
@[simp] theorem State.setTime_ops (x : TetraTime) : (s.setTime x).ops = s.ops := rfl
@[simp] theorem State.setTime_result (x : TetraTime) : (s.setTime x).result = s.result := rfl

@[simp] theorem State.setCell_sync (x : CellState) : (s.setCell x).sync = s.sync := rfl
@[simp] theorem State.setCell_time (x : CellState) : (s.setCell x).time = s.time := rfl
@[simp] theorem State.setCell_cell (x : CellState) : (s.setCell x).cell = x := rfl
@[simp] theorem State.setCell_mac (x : CellState) : (s.setCell x).mac = s.mac := rfl
@[simp] theorem State.setCell_addr (x : CellState) : (s.setCell x).addr = s.addr := rfl
@[simp] theorem State.setCell_umEnc (x : CellState) : (s.setCell x).umEnc = s.umEnc := rfl
@[simp] theorem State.setCell_frag (x : CellState) : (s.setCell x).frag = s.frag := rfl
@[simp] theorem State.setCell_burst (x : CellState) : (s.setCell x).burst = s.burst := rfl
@[simp] theorem State.setCell_halted (x : CellState) : (s.setCell x).halted = s.halted := rfl
@[simp] theorem State.setCell_keepFillBits (x : CellState) : (s.setCell x).keepFillBits = s.keepFillBits := rfl
@[simp] theorem State.setCell_packMode (x : CellState) : (s.setCell x).packMode = s.packMode := rfl
@[simp] theorem State.setCell_params (x : CellState) : (s.setCell x).params = s.params := rfl
@[simp] theorem State.setCell_output (x : CellState) : (s.setCell x).output = s.output := rfl
@[simp] theorem State.setCell_env (x : CellState) : (s.setCell x).env = s.env := rfl
@[simp] theorem State.setCell_frameFound (x : CellState) : (s.setCell x).frameFound = s.frameFound := rfl
@[simp] theorem State.setCell_ops (x : CellState) : (s.setCell x).ops = s.ops := rfl
@[simp] theorem State.setCell_result (x : CellState) : (s.setCell x).result = s.result := rfl

@[simp] theorem State.setMac_sync (x : MacState) : (s.setMac x).sync = s.sync := rfl
@[simp] theorem State.setMac_time (x : MacState) : (s.setMac x).time = s.time := rfl
@[simp] theorem State.setMac_cell (x : MacState) : (s.setMac x).cell = s.cell := rfl
@[simp] theorem State.setMac_mac (x : MacState) : (s.setMac x).mac = x := rfl
@[simp] theorem State.setMac_addr (x : MacState) : (s.setMac x).addr = s.addr := rfl
@[simp] theorem State.setMac_umEnc (x : MacState) : (s.setMac x).umEnc = s.umEnc := rfl
@[simp] theorem State.setMac_frag (x : MacState) : (s.setMac x).frag = s.frag := rfl
@[simp] theorem State.setMac_burst (x : MacState) : (s.setMac x).burst = s.burst := rfl
@[simp] theorem State.setMac_halted (x : MacState) : (s.setMac x).halted = s.halted := rfl
@[simp] theorem State.setMac_keepFillBits (x : MacState) : (s.setMac x).keepFillBits = s.keepFillBits := rfl
@[simp] theorem State.setMac_packMode (x : MacState) : (s.setMac x).packMode = s.packMode := rfl
@[simp] theorem State.setMac_params (x : MacState) : (s.setMac x).params = s.params := rfl
@[simp] theorem State.setMac_output (x : MacState) : (s.setMac x).output = s.output := rfl
@[simp] theorem State.setMac_env (x : MacState) : (s.setMac x).env = s.env := rfl
@[simp] theorem State.setMac_frameFound (x : MacState) : (s.setMac x).frameFound = s.frameFound := rfl
@[simp] theorem State.setMac_ops (x : MacState) : (s.setMac x).ops = s.ops := rfl
@[simp] theorem State.setMac_result (x : MacState) : (s.setMac x).result = s.result := rfl

@[simp] theorem State.setAddr_sync (x : MacAddress) : (s.setAddr x).sync = s.sync := rfl
@[simp] theorem State.setAddr_time (x : MacAddress) : (s.setAddr x).time = s.time := rfl
@[simp] theorem State.setAddr_cell (x : MacAddress) : (s.setAddr x).cell = s.cell := rfl
@[simp] theorem State.setAddr_mac (x : MacAddress) : (s.setAddr x).mac = s.mac := rfl
@[simp] theorem State.setAddr_addr (x : MacAddress) : (s.setAddr x).addr = x := rfl
@[simp] theorem State.setAddr_umEnc (x : MacAddress) : (s.setAddr x).umEnc = s.umEnc := rfl
@[simp] theorem State.setAddr_frag (x : MacAddress) : (s.setAddr x).frag = s.frag := rfl
@[simp] theorem State.setAddr_burst (x : MacAddress) : (s.setAddr x).burst = s.burst := rfl
@[simp] theorem State.setAddr_halted (x : MacAddress) : (s.setAddr x).halted = s.halted := rfl
@[simp] theorem State.setAddr_keepFillBits (x : MacAddress) : (s.setAddr x).keepFillBits = s.keepFillBits := rfl
@[simp] theorem State.setAddr_packMode (x : MacAddress) : (s.setAddr x).packMode = s.packMode := rfl
@[simp] theorem State.setAddr_params (x : MacAddress) : (s.setAddr x).params = s.params := rfl
@[simp] theorem State.setAddr_output (x : MacAddress) : (s.setAddr x).output = s.output := rfl
@[simp] theorem State.setAddr_env (x : MacAddress) : (s.setAddr x).env = s.env := rfl
@[simp] theorem State.setAddr_frameFound (x : MacAddress) : (s.setAddr x).frameFound = s.frameFound := rfl
@[simp] theorem State.setAddr_ops (x : MacAddress) : (s.setAddr x).ops = s.ops := rfl
@[simp] theorem State.setAddr_result (x : MacAddress) : (s.setAddr x).result = s.result := rfl

@[simp] theorem State.setUmEnc_sync (x : Vector (BitVec 2) 64) : (s.setUmEnc x).sync = s.sync := rfl
@[simp] theorem State.setUmEnc_time (x : Vector (BitVec 2) 64) : (s.setUmEnc x).time = s.time := rfl
@[simp] theorem State.setUmEnc_cell (x : Vector (BitVec 2) 64) : (s.setUmEnc x).cell = s.cell := rfl
@[simp] theorem State.setUmEnc_mac (x : Vector (BitVec 2) 64) : (s.setUmEnc x).mac = s.mac := rfl
@[simp] theorem State.setUmEnc_addr (x : Vector (BitVec 2) 64) : (s.setUmEnc x).addr = s.addr := rfl
@[simp] theorem State.setUmEnc_umEnc (x : Vector (BitVec 2) 64) : (s.setUmEnc x).umEnc = x := rfl
@[simp] theorem State.setUmEnc_frag (x : Vector (BitVec 2) 64) : (s.setUmEnc x).frag = s.frag := rfl
@[simp] theorem State.setUmEnc_burst (x : Vector (BitVec 2) 64) : (s.setUmEnc x).burst = s.burst := rfl
@[simp] theorem State.setUmEnc_halted (x : Vector (BitVec 2) 64) : (s.setUmEnc x).halted = s.halted := rfl
@[simp] theorem State.setUmEnc_keepFillBits (x : Vector (BitVec 2) 64) : (s.setUmEnc x).keepFillBits = s.keepFillBits := rfl
@[simp] theorem State.setUmEnc_packMode (x : Vector (BitVec 2) 64) : (s.setUmEnc x).packMode = s.packMode := rfl
@[simp] theorem State.setUmEnc_params (x : Vector (BitVec 2) 64) : (s.setUmEnc x).params = s.params := rfl
@[simp] theorem State.setUmEnc_output (x : Vector (BitVec 2) 64) : (s.setUmEnc x).output = s.output := rfl
@[simp] theorem State.setUmEnc_env (x : Vector (BitVec 2) 64) : (s.setUmEnc x).env = s.env := rfl
@[simp] theorem State.setUmEnc_frameFound (x : Vector (BitVec 2) 64) : (s.setUmEnc x).frameFound = s.frameFound := rfl
@[simp] theorem State.setUmEnc_ops (x : Vector (BitVec 2) 64) : (s.setUmEnc x).ops = s.ops := rfl
@[simp] theorem State.setUmEnc_result (x : Vector (BitVec 2) 64) : (s.setUmEnc x).result = s.result := rfl

@[simp] theorem State.setFrag_sync (x : FragState) : (s.setFrag x).sync = s.sync := rfl
@[simp] theorem State.setFrag_time (x : FragState) : (s.setFrag x).time = s.time := rfl
@[simp] theorem State.setFrag_cell (x : FragState) : (s.setFrag x).cell = s.cell := rfl
@[simp] theorem State.setFrag_mac (x : FragState) : (s.setFrag x).mac = s.mac := rfl
@[simp] theorem State.setFrag_addr (x : FragState) : (s.setFrag x).addr = s.addr := rfl
@[simp] theorem State.setFrag_umEnc (x : FragState) : (s.setFrag x).umEnc = s.umEnc := rfl
@[simp] theorem State.setFrag_frag (x : FragState) : (s.setFrag x).frag = x := rfl
@[simp] theorem State.setFrag_burst (x : FragState) : (s.setFrag x).burst = s.burst := rfl
@[simp] theorem State.setFrag_halted (x : FragState) : (s.setFrag x).halted = s.halted := rfl
@[simp] theorem State.setFrag_keepFillBits (x : FragState) : (s.setFrag x).keepFillBits = s.keepFillBits := rfl
@[simp] theorem State.setFrag_packMode (x : FragState) : (s.setFrag x).packMode = s.packMode := rfl
@[simp] theorem State.setFrag_params (x : FragState) : (s.setFrag x).params = s.params := rfl
@[simp] theorem State.setFrag_output (x : FragState) : (s.setFrag x).output = s.output := rfl
@[simp] theorem State.setFrag_env (x : FragState) : (s.setFrag x).env = s.env := rfl
@[simp] theorem State.setFrag_frameFound (x : FragState) : (s.setFrag x).frameFound = s.frameFound := rfl
@[simp] theorem State.setFrag_ops (x : FragState) : (s.setFrag x).ops = s.ops := rfl
@[simp] theorem State.setFrag_result (x : FragState) : (s.setFrag x).result = s.result := rfl

@[simp] theorem State.setBurst_sync (x : BurstState) : (s.setBurst x).sync = s.sync := rfl
@[simp] theorem State.setBurst_time (x : BurstState) : (s.setBurst x).time = s.time := rfl
@[simp] theorem State.setBurst_cell (x : BurstState) : (s.setBurst x).cell = s.cell := rfl
@[simp] theorem State.setBurst_mac (x : BurstState) : (s.setBurst x).mac = s.mac := rfl
@[simp] theorem State.setBurst_addr (x : BurstState) : (s.setBurst x).addr = s.addr := rfl
@[simp] theorem State.setBurst_umEnc (x : BurstState) : (s.setBurst x).umEnc = s.umEnc := rfl
@[simp] theorem State.setBurst_frag (x : BurstState) : (s.setBurst x).frag = s.frag := rfl
@[simp] theorem State.setBurst_burst (x : BurstState) : (s.setBurst x).burst = x := rfl
@[simp] theorem State.setBurst_halted (x : BurstState) : (s.setBurst x).halted = s.halted := rfl
@[simp] theorem State.setBurst_keepFillBits (x : BurstState) : (s.setBurst x).keepFillBits = s.keepFillBits := rfl
@[simp] theorem State.setBurst_packMode (x : BurstState) : (s.setBurst x).packMode = s.packMode := rfl
@[simp] theorem State.setBurst_params (x : BurstState) : (s.setBurst x).params = s.params := rfl
@[simp] theorem State.setBurst_output (x : BurstState) : (s.setBurst x).output = s.output := rfl
@[simp] theorem State.setBurst_env (x : BurstState) : (s.setBurst x).env = s.env := rfl
@[simp] theorem State.setBurst_frameFound (x : BurstState) : (s.setBurst x).frameFound = s.frameFound := rfl
@[simp] theorem State.setBurst_ops (x : BurstState) : (s.setBurst x).ops = s.ops := rfl
@[simp] theorem State.setBurst_result (x : BurstState) : (s.setBurst x).result = s.result := rfl

@[simp] theorem State.setHalted_sync (x : Bool) : (s.setHalted x).sync = s.sync := rfl
@[simp] theorem State.setHalted_time (x : Bool) : (s.setHalted x).time = s.time := rfl
@[simp] theorem State.setHalted_cell (x : Bool) : (s.setHalted x).cell = s.cell := rfl
@[simp] theorem State.setHalted_mac (x : Bool) : (s.setHalted x).mac = s.mac := rfl
@[simp] theorem State.setHalted_addr (x : Bool) : (s.setHalted x).addr = s.addr := rfl
@[simp] theorem State.setHalted_umEnc (x : Bool) : (s.setHalted x).umEnc = s.umEnc := rfl
@[simp] theorem State.setHalted_frag (x : Bool) : (s.setHalted x).frag = s.frag := rfl
@[simp] theorem State.setHalted_burst (x : Bool) : (s.setHalted x).burst = s.burst := rfl
@[simp] theorem State.setHalted_halted (x : Bool) : (s.setHalted x).halted = x := rfl
@[simp] theorem State.setHalted_keepFillBits (x : Bool) : (s.setHalted x).keepFillBits = s.keepFillBits := rfl
@[simp] theorem State.setHalted_packMode (x : Bool) : (s.setHalted x).packMode = s.packMode := rfl
@[simp] theorem State.setHalted_params (x : Bool) : (s.setHalted x).params = s.params := rfl
@[simp] theorem State.setHalted_output (x : Bool) : (s.setHalted x).output = s.output := rfl
@[simp] theorem State.setHalted_env (x : Bool) : (s.setHalted x).env = s.env := rfl
@[simp] theorem State.setHalted_frameFound (x : Bool) : (s.setHalted x).frameFound = s.frameFound := rfl
@[simp] theorem State.setHalted_ops (x : Bool) : (s.setHalted x).ops = s.ops := rfl
@[simp] theorem State.setHalted_result (x : Bool) : (s.setHalted x).result = s.result := rfl

@[simp] theorem State.setEnv_sync (x : Environment) : (s.setEnv x).sync = s.sync := rfl
@[simp] theorem State.setEnv_time (x : Environment) : (s.setEnv x).time = s.time := rfl
@[simp] theorem State.setEnv_cell (x : Environment) : (s.setEnv x).cell = s.cell := rfl
@[simp] theorem State.setEnv_mac (x : Environment) : (s.setEnv x).mac = s.mac := rfl
@[simp] theorem State.setEnv_addr (x : Environment) : (s.setEnv x).addr = s.addr := rfl
@[simp] theorem State.setEnv_umEnc (x : Environment) : (s.setEnv x).umEnc = s.umEnc := rfl
@[simp] theorem State.setEnv_frag (x : Environment) : (s.setEnv x).frag = s.frag := rfl
@[simp] theorem State.setEnv_burst (x : Environment) : (s.setEnv x).burst = s.burst := rfl
@[simp] theorem State.setEnv_halted (x : Environment) : (s.setEnv x).halted = s.halted := rfl
@[simp] theorem State.setEnv_keepFillBits (x : Environment) : (s.setEnv x).keepFillBits = s.keepFillBits := rfl
@[simp] theorem State.setEnv_packMode (x : Environment) : (s.setEnv x).packMode = s.packMode := rfl
@[simp] theorem State.setEnv_params (x : Environment) : (s.setEnv x).params = s.params := rfl
@[simp] theorem State.setEnv_output (x : Environment) : (s.setEnv x).output = s.output := rfl
@[simp] theorem State.setEnv_env (x : Environment) : (s.setEnv x).env = x := rfl
@[simp] theorem State.setEnv_frameFound (x : Environment) : (s.setEnv x).frameFound = s.frameFound := rfl
@[simp] theorem State.setEnv_ops (x : Environment) : (s.setEnv x).ops = s.ops := rfl
@[simp] theorem State.setEnv_result (x : Environment) : (s.setEnv x).result = s.result := rfl

@[simp] theorem State.setFrameFound_sync (x : Bool) : (s.setFrameFound x).sync = s.sync := rfl
@[simp] theorem State.setFrameFound_time (x : Bool) : (s.setFrameFound x).time = s.time := rfl
@[simp] theorem State.setFrameFound_cell (x : Bool) : (s.setFrameFound x).cell = s.cell := rfl
@[simp] theorem State.setFrameFound_mac (x : Bool) : (s.setFrameFound x).mac = s.mac := rfl
@[simp] theorem State.setFrameFound_addr (x : Bool) : (s.setFrameFound x).addr = s.addr := rfl
@[simp] theorem State.setFrameFound_umEnc (x : Bool) : (s.setFrameFound x).umEnc = s.umEnc := rfl
@[simp] theorem State.setFrameFound_frag (x : Bool) : (s.setFrameFound x).frag = s.frag := rfl
@[simp] theorem State.setFrameFound_burst (x : Bool) : (s.setFrameFound x).burst = s.burst := rfl
@[simp] theorem State.setFrameFound_halted (x : Bool) : (s.setFrameFound x).halted = s.halted := rfl
@[simp] theorem State.setFrameFound_keepFillBits (x : Bool) : (s.setFrameFound x).keepFillBits = s.keepFillBits := rfl
@[simp] theorem State.setFrameFound_packMode (x : Bool) : (s.setFrameFound x).packMode = s.packMode := rfl
@[simp] theorem State.setFrameFound_params (x : Bool) : (s.setFrameFound x).params = s.params := rfl
@[simp] theorem State.setFrameFound_output (x : Bool) : (s.setFrameFound x).output = s.output := rfl
@[simp] theorem State.setFrameFound_env (x : Bool) : (s.setFrameFound x).env = s.env := rfl
@[simp] theorem State.setFrameFound_frameFound (x : Bool) : (s.setFrameFound x).frameFound = x := rfl
@[simp] theorem State.setFrameFound_ops (x : Bool) : (s.setFrameFound x).ops = s.ops := rfl
@[simp] theorem State.setFrameFound_result (x : Bool) : (s.setFrameFound x).result = s.result := rfl

@[simp] theorem State.setOps_sync (x : List Bits) : (s.setOps x).sync = s.sync := rfl
@[simp] theorem State.setOps_time (x : List Bits) : (s.setOps x).time = s.time := rfl
@[simp] theorem State.setOps_cell (x : List Bits) : (s.setOps x).cell = s.cell := rfl
@[simp] theorem State.setOps_mac (x : List Bits) : (s.setOps x).mac = s.mac := rfl
@[simp] theorem State.setOps_addr (x : List Bits) : (s.setOps x).addr = s.addr := rfl
@[simp] theorem State.setOps_umEnc (x : List Bits) : (s.setOps x).umEnc = s.umEnc := rfl
@[simp] theorem State.setOps_frag (x : List Bits) : (s.setOps x).frag = s.frag := rfl
@[simp] theorem State.setOps_burst (x : List Bits) : (s.setOps x).burst = s.burst := rfl
@[simp] theorem State.setOps_halted (x : List Bits) : (s.setOps x).halted = s.halted := rfl
@[simp] theorem State.setOps_keepFillBits (x : List Bits) : (s.setOps x).keepFillBits = s.keepFillBits := rfl
@[simp] theorem State.setOps_packMode (x : List Bits) : (s.setOps x).packMode = s.packMode := rfl
@[simp] theorem State.setOps_params (x : List Bits) : (s.setOps x).params = s.params := rfl
@[simp] theorem State.setOps_output (x : List Bits) : (s.setOps x).output = s.output := rfl
@[simp] theorem State.setOps_env (x : List Bits) : (s.setOps x).env = s.env := rfl
@[simp] theorem State.setOps_frameFound (x : List Bits) : (s.setOps x).frameFound = s.frameFound := rfl
@[simp] theorem State.setOps_ops (x : List Bits) : (s.setOps x).ops = x := rfl
@[simp] theorem State.setOps_result (x : List Bits) : (s.setOps x).result = s.result := rfl

@[simp] theorem State.returns_sync (x : Result) : (s.returns x).sync = s.sync := rfl
@[simp] theorem State.returns_time (x : Result) : (s.returns x).time = s.time := rfl
@[simp] theorem State.returns_cell (x : Result) : (s.returns x).cell = s.cell := rfl
@[simp] theorem State.returns_mac (x : Result) : (s.returns x).mac = s.mac := rfl
@[simp] theorem State.returns_addr (x : Result) : (s.returns x).addr = s.addr := rfl
@[simp] theorem State.returns_umEnc (x : Result) : (s.returns x).umEnc = s.umEnc := rfl
@[simp] theorem State.returns_frag (x : Result) : (s.returns x).frag = s.frag := rfl
@[simp] theorem State.returns_burst (x : Result) : (s.returns x).burst = s.burst := rfl
@[simp] theorem State.returns_halted (x : Result) : (s.returns x).halted = s.halted := rfl
@[simp] theorem State.returns_keepFillBits (x : Result) : (s.returns x).keepFillBits = s.keepFillBits := rfl
@[simp] theorem State.returns_packMode (x : Result) : (s.returns x).packMode = s.packMode := rfl
@[simp] theorem State.returns_params (x : Result) : (s.returns x).params = s.params := rfl
@[simp] theorem State.returns_output (x : Result) : (s.returns x).output = s.output := rfl
@[simp] theorem State.returns_env (x : Result) : (s.returns x).env = s.env := rfl
@[simp] theorem State.returns_frameFound (x : Result) : (s.returns x).frameFound = s.frameFound := rfl
@[simp] theorem State.returns_ops (x : Result) : (s.returns x).ops = s.ops := rfl
@[simp] theorem State.returns_result (x : Result) : (s.returns x).result = x := rfl

@[simp] theorem State.push_sync (x : Output) : (s.push x).sync = s.sync := rfl
@[simp] theorem State.push_time (x : Output) : (s.push x).time = s.time := rfl
@[simp] theorem State.push_cell (x : Output) : (s.push x).cell = s.cell := rfl
@[simp] theorem State.push_mac (x : Output) : (s.push x).mac = s.mac := rfl
@[simp] theorem State.push_addr (x : Output) : (s.push x).addr = s.addr := rfl
@[simp] theorem State.push_umEnc (x : Output) : (s.push x).umEnc = s.umEnc := rfl
@[simp] theorem State.push_frag (x : Output) : (s.push x).frag = s.frag := rfl
@[simp] theorem State.push_burst (x : Output) : (s.push x).burst = s.burst := rfl
@[simp] theorem State.push_halted (x : Output) : (s.push x).halted = s.halted := rfl
@[simp] theorem State.push_keepFillBits (x : Output) : (s.push x).keepFillBits = s.keepFillBits := rfl
@[simp] theorem State.push_packMode (x : Output) : (s.push x).packMode = s.packMode := rfl
@[simp] theorem State.push_params (x : Output) : (s.push x).params = s.params := rfl
@[simp] theorem State.push_output (x : Output) : (s.push x).output = s.output ++ [x] := rfl
@[simp] theorem State.push_env (x : Output) : (s.push x).env = s.env := rfl
@[simp] theorem State.push_frameFound (x : Output) : (s.push x).frameFound = s.frameFound := rfl
@[simp] theorem State.push_ops (x : Output) : (s.push x).ops = s.ops := rfl
@[simp] theorem State.push_result (x : Output) : (s.push x).result = s.result := rfl

@[simp] theorem State.log_sync (x : LogRecord) : (s.log x).sync = s.sync := rfl
@[simp] theorem State.log_time (x : LogRecord) : (s.log x).time = s.time := rfl
@[simp] theorem State.log_cell (x : LogRecord) : (s.log x).cell = s.cell := rfl
@[simp] theorem State.log_mac (x : LogRecord) : (s.log x).mac = s.mac := rfl
@[simp] theorem State.log_addr (x : LogRecord) : (s.log x).addr = s.addr := rfl
@[simp] theorem State.log_umEnc (x : LogRecord) : (s.log x).umEnc = s.umEnc := rfl
@[simp] theorem State.log_frag (x : LogRecord) : (s.log x).frag = s.frag := rfl
@[simp] theorem State.log_burst (x : LogRecord) : (s.log x).burst = s.burst := rfl
@[simp] theorem State.log_halted (x : LogRecord) : (s.log x).halted = s.halted := rfl
@[simp] theorem State.log_keepFillBits (x : LogRecord) : (s.log x).keepFillBits = s.keepFillBits := rfl
@[simp] theorem State.log_packMode (x : LogRecord) : (s.log x).packMode = s.packMode := rfl
@[simp] theorem State.log_params (x : LogRecord) : (s.log x).params = s.params := rfl
@[simp] theorem State.log_output (x : LogRecord) : (s.log x).output = s.output ++ [.log x] := rfl
@[simp] theorem State.log_env (x : LogRecord) : (s.log x).env = s.env := rfl
@[simp] theorem State.log_frameFound (x : LogRecord) : (s.log x).frameFound = s.frameFound := rfl
@[simp] theorem State.log_ops (x : LogRecord) : (s.log x).ops = s.ops := rfl
@[simp] theorem State.log_result (x : LogRecord) : (s.log x).result = s.result := rfl

@[simp] theorem State.emit_sync (ch : LogicalChannel) (v : Bits) : (s.emit ch v).sync = s.sync := by
  unfold State.emit; split <;> rfl
@[simp] theorem State.emit_time (ch : LogicalChannel) (v : Bits) : (s.emit ch v).time = s.time := by
  unfold State.emit; split <;> rfl
@[simp] theorem State.emit_cell (ch : LogicalChannel) (v : Bits) : (s.emit ch v).cell = s.cell := by
  unfold State.emit; split <;> rfl
@[simp] theorem State.emit_mac (ch : LogicalChannel) (v : Bits) : (s.emit ch v).mac = s.mac := by
  unfold State.emit; split <;> rfl
@[simp] theorem State.emit_addr (ch : LogicalChannel) (v : Bits) : (s.emit ch v).addr = s.addr := by
  unfold State.emit; split <;> rfl
@[simp] theorem State.emit_umEnc (ch : LogicalChannel) (v : Bits) : (s.emit ch v).umEnc = s.umEnc := by
  unfold State.emit; split <;> rfl
@[simp] theorem State.emit_frag (ch : LogicalChannel) (v : Bits) : (s.emit ch v).frag = s.frag := by
  unfold State.emit; split <;> rfl
@[simp] theorem State.emit_burst (ch : LogicalChannel) (v : Bits) : (s.emit ch v).burst = s.burst := by
  unfold State.emit; split <;> rfl
@[simp] theorem State.emit_halted (ch : LogicalChannel) (v : Bits) : (s.emit ch v).halted = s.halted := by
  unfold State.emit; split <;> rfl
@[simp] theorem State.emit_keepFillBits (ch : LogicalChannel) (v : Bits) : (s.emit ch v).keepFillBits = s.keepFillBits := by
  unfold State.emit; split <;> rfl
@[simp] theorem State.emit_packMode (ch : LogicalChannel) (v : Bits) : (s.emit ch v).packMode = s.packMode := by
  unfold State.emit; split <;> rfl
@[simp] theorem State.emit_params (ch : LogicalChannel) (v : Bits) : (s.emit ch v).params = s.params := by
  unfold State.emit; split <;> rfl
@[simp] theorem State.emit_env (ch : LogicalChannel) (v : Bits) : (s.emit ch v).env = s.env := by
  unfold State.emit; split <;> rfl
@[simp] theorem State.emit_frameFound (ch : LogicalChannel) (v : Bits) : (s.emit ch v).frameFound = s.frameFound := by
  unfold State.emit; split <;> rfl
@[simp] theorem State.emit_ops (ch : LogicalChannel) (v : Bits) : (s.emit ch v).ops = s.ops := by
  unfold State.emit; split <;> rfl
@[simp] theorem State.emit_result (ch : LogicalChannel) (v : Bits) : (s.emit ch v).result = s.result := by
  unfold State.emit; split <;> rfl

/-- What an emission appends: nothing where the SDU is empty (47 R383). -/
theorem State.emit_output (ch : LogicalChannel) (v : Bits) :
    (s.emit ch v).output = s.output ++ (if v.isEmpty then [] else [.emission ⟨ch, v, s.addr, s.time⟩]) := by
  unfold State.emit; split <;> simp

@[simp] theorem State.setMarkerEncryption_sync (um : BitVec 6) (mode : BitVec 2) : (s.setMarkerEncryption um mode).sync = s.sync := rfl
@[simp] theorem State.setMarkerEncryption_time (um : BitVec 6) (mode : BitVec 2) : (s.setMarkerEncryption um mode).time = s.time := rfl
@[simp] theorem State.setMarkerEncryption_cell (um : BitVec 6) (mode : BitVec 2) : (s.setMarkerEncryption um mode).cell = s.cell := rfl
@[simp] theorem State.setMarkerEncryption_mac (um : BitVec 6) (mode : BitVec 2) : (s.setMarkerEncryption um mode).mac = s.mac := rfl
@[simp] theorem State.setMarkerEncryption_addr (um : BitVec 6) (mode : BitVec 2) : (s.setMarkerEncryption um mode).addr = s.addr := rfl
@[simp] theorem State.setMarkerEncryption_frag (um : BitVec 6) (mode : BitVec 2) : (s.setMarkerEncryption um mode).frag = s.frag := rfl
@[simp] theorem State.setMarkerEncryption_burst (um : BitVec 6) (mode : BitVec 2) : (s.setMarkerEncryption um mode).burst = s.burst := rfl
@[simp] theorem State.setMarkerEncryption_halted (um : BitVec 6) (mode : BitVec 2) : (s.setMarkerEncryption um mode).halted = s.halted := rfl
@[simp] theorem State.setMarkerEncryption_keepFillBits (um : BitVec 6) (mode : BitVec 2) : (s.setMarkerEncryption um mode).keepFillBits = s.keepFillBits := rfl
@[simp] theorem State.setMarkerEncryption_packMode (um : BitVec 6) (mode : BitVec 2) : (s.setMarkerEncryption um mode).packMode = s.packMode := rfl
@[simp] theorem State.setMarkerEncryption_params (um : BitVec 6) (mode : BitVec 2) : (s.setMarkerEncryption um mode).params = s.params := rfl
@[simp] theorem State.setMarkerEncryption_output (um : BitVec 6) (mode : BitVec 2) : (s.setMarkerEncryption um mode).output = s.output := rfl
@[simp] theorem State.setMarkerEncryption_env (um : BitVec 6) (mode : BitVec 2) : (s.setMarkerEncryption um mode).env = s.env := rfl
@[simp] theorem State.setMarkerEncryption_frameFound (um : BitVec 6) (mode : BitVec 2) : (s.setMarkerEncryption um mode).frameFound = s.frameFound := rfl
@[simp] theorem State.setMarkerEncryption_ops (um : BitVec 6) (mode : BitVec 2) : (s.setMarkerEncryption um mode).ops = s.ops := rfl
@[simp] theorem State.setMarkerEncryption_result (um : BitVec 6) (mode : BitVec 2) : (s.setMarkerEncryption um mode).result = s.result := rfl

@[simp] theorem State.setLogicalChannel_sync (ch : LogicalChannel) : (s.setLogicalChannel ch).sync = s.sync := rfl
@[simp] theorem State.setLogicalChannel_time (ch : LogicalChannel) : (s.setLogicalChannel ch).time = s.time := rfl
@[simp] theorem State.setLogicalChannel_cell (ch : LogicalChannel) : (s.setLogicalChannel ch).cell = s.cell := rfl
@[simp] theorem State.setLogicalChannel_addr (ch : LogicalChannel) : (s.setLogicalChannel ch).addr = s.addr := rfl
@[simp] theorem State.setLogicalChannel_umEnc (ch : LogicalChannel) : (s.setLogicalChannel ch).umEnc = s.umEnc := rfl
@[simp] theorem State.setLogicalChannel_frag (ch : LogicalChannel) : (s.setLogicalChannel ch).frag = s.frag := rfl
@[simp] theorem State.setLogicalChannel_burst (ch : LogicalChannel) : (s.setLogicalChannel ch).burst = s.burst := rfl
@[simp] theorem State.setLogicalChannel_halted (ch : LogicalChannel) : (s.setLogicalChannel ch).halted = s.halted := rfl
@[simp] theorem State.setLogicalChannel_keepFillBits (ch : LogicalChannel) : (s.setLogicalChannel ch).keepFillBits = s.keepFillBits := rfl
@[simp] theorem State.setLogicalChannel_packMode (ch : LogicalChannel) : (s.setLogicalChannel ch).packMode = s.packMode := rfl
@[simp] theorem State.setLogicalChannel_params (ch : LogicalChannel) : (s.setLogicalChannel ch).params = s.params := rfl
@[simp] theorem State.setLogicalChannel_output (ch : LogicalChannel) : (s.setLogicalChannel ch).output = s.output := rfl
@[simp] theorem State.setLogicalChannel_env (ch : LogicalChannel) : (s.setLogicalChannel ch).env = s.env := rfl
@[simp] theorem State.setLogicalChannel_frameFound (ch : LogicalChannel) : (s.setLogicalChannel ch).frameFound = s.frameFound := rfl
@[simp] theorem State.setLogicalChannel_ops (ch : LogicalChannel) : (s.setLogicalChannel ch).ops = s.ops := rfl
@[simp] theorem State.setLogicalChannel_result (ch : LogicalChannel) : (s.setLogicalChannel ch).result = s.result := rfl

@[simp] theorem State.setLogicalChannel_mac (ch : LogicalChannel) :
    (s.setLogicalChannel ch).mac = { s.mac with logicalChannel := ch } := rfl

/-- The table of encryption modes after a write: the new mode at the marker, the old ones elsewhere (10 R33). -/
theorem State.setMarkerEncryption_getElem (um : BitVec 6) (mode : BitVec 2) (k : Nat) (h : k < 64) :
    (s.setMarkerEncryption um mode).umEnc[k] = if um.toNat = k then mode else s.umEnc[k] := by
  simp [State.setMarkerEncryption, State.setUmEnc, Vector.getElem_set]

end Sys2Proof.Machine
end

