-- ==== Sys2Proof/Laws/Ops.lean ====
section
/-! SUPPORT. For each shared way of answering, once, everything it can do: what state it gives if it gives a next state. -/

namespace Sys2Proof.Machine

theorem answer_next {s t : State} {r : Result} : answer s r = .next t ↔ t = s.returns r := by
  simp [answer, eq_comm]

theorem inDomain_next {ok : Bool} {name : String} {a : Answer} {t : State} :
    inDomain ok name a = .next t ↔ ok = true ∧ a = .next t := by
  cases ok <;> simp [inDomain]

theorem answerUnit_next {s t : State} {x : Except OutOfRange (UnitResult × State)} :
    answerUnit s x = .next t ↔
      (∃ r s', x = .ok (r, s') ∧ t = s'.returns (.unit r)) ∨
      (∃ e, x = .error e ∧ t = (abandonUnit e s).returns (.raised e)) := by
  rcases x with e | ⟨r, s'⟩ <;> simp [answerUnit, answer_next]

theorem answerPlain_next {s t : State} {x : Except OutOfRange State} :
    answerPlain s x = .next t ↔
      (∃ s', x = .ok s' ∧ t = s'.returns .none) ∨
      (∃ e, x = .error e ∧ t = (abandonUnit e s).returns (.raised e)) := by
  rcases x with e | s' <;> simp [answerPlain, answer_next]

/-- What is left after a unit: its own state, or the caller's with one record more (45 R297). -/
theorem caught_cases (s : State) (x : Except OutOfRange State) :
    (∃ s', x = .ok s' ∧ caught s x = s') ∨ (∃ e, x = .error e ∧ caught s x = s.log (.outOfRange e.pos e.n e.size)) := by
  rcases x with e | s' <;> simp [caught, abandonUnit]

/-- The state a vector operand's write leaves: only the vector's own element differs (40 R143). -/
theorem writeVec_cases (s : State) (v : VecOperand) (w : Bits) :
    writeVec s v w = s ∨ writeVec s v w = s.setSync { s.sync with buffer := w } ∨
      writeVec s v w = s.setFrag { s.frag with buffer := w } := by
  cases v <;> simp [writeVec]

/-- A vector reads back what was written to it, where it is a stored vector (40 R143). -/
theorem readVec_writeVec (s : State) (w : Bits) :
    readVec (writeVec s .syncBuffer w) .syncBuffer = w ∧ readVec (writeVec s .fragBuffer w) .fragBuffer = w := ⟨rfl, rfl⟩

/-- Writing one stored vector leaves the other alone. -/
theorem readVec_writeVec_other (s : State) (w : Bits) :
    readVec (writeVec s .syncBuffer w) .fragBuffer = readVec s .fragBuffer ∧
      readVec (writeVec s .fragBuffer w) .syncBuffer = readVec s .syncBuffer := ⟨rfl, rfl⟩

/-- A field read either fails because it passes the end, or gives a number of its width (40 R141). -/
theorem getValue_cases (v : Bits) (pos n : Nat) :
    (v.length < pos + n ∧ getValue v pos n = .error ⟨pos, n, v.length⟩) ∨
      (pos + n ≤ v.length ∧ getValue v pos n = .ok (bitsToNat (v.slice pos (pos + n)))) := by
  unfold getValue Bits.slice
  split
  · exact .inl ⟨by omega, rfl⟩
  · exact .inr ⟨by omega, by simp⟩

end Sys2Proof.Machine
end

