-- ==== Sys2Proof/Laws/MacStep.lean ====
section
/-! SUPPORT. What the MAC can do to a state, said once for every unit, every handler and the defragmenter: `MacStep`. The invariants of whole steps follow from it. -/

namespace Sys2Proof.Machine

/-- What any part of the MAC may do: nothing outside the MAC, records appended with no empty emission, and the MAC's own bounds kept. -/
structure MacStep (s t : State) : Prop where
  outside : OutsideMac s t
  grew : ∃ new, OutputGrew s t new ∧ ∀ e, Output.emission e ∈ new → e.sdu ≠ []
  time : s.time.wf = true → t.time.wf = true
  startTime : s.time.wf = true → s.frag.startTime.wf = true → t.frag.startTime.wf = true
  fragmentCount : s.frag.fragmentCount ≤ 65535 → t.frag.fragmentCount ≤ 65535
  dissocCount : s.burst.dissocCount ≤ 32 → t.burst.dissocCount ≤ 32
  fragBuffer : s.frag.buffer.length ≤ s.params.fragCap → t.frag.buffer.length ≤ s.params.fragCap
  stopped : (s.frag.stopped = true → s.frag.buffer = []) → t.frag.stopped = true → t.frag.buffer = []

theorem OutsideMac.refl (s : State) : OutsideMac s s := ⟨rfl, rfl, rfl, rfl, rfl, rfl, rfl, rfl⟩

theorem OutsideMac.trans {s t u : State} (h : OutsideMac s t) (h' : OutsideMac t u) : OutsideMac s u :=
  ⟨h'.1.trans h.1, h'.2.trans h.2, h'.3.trans h.3, h'.4.trans h.4, h'.5.trans h.5, h'.6.trans h.6, h'.7.trans h.7,
    h'.8.trans h.8⟩

theorem MacStep.refl (s : State) : MacStep s s :=
  ⟨.refl s, ⟨[], by simp [OutputGrew]⟩, id, fun _ => id, id, id, id, id⟩

theorem MacStep.trans {s t u : State} (h : MacStep s t) (h' : MacStep t u) : MacStep s u where
  outside := h.outside.trans h'.outside
  grew := by
    obtain ⟨a, ha, hae⟩ := h.grew
    obtain ⟨b, hb, hbe⟩ := h'.grew
    refine ⟨a ++ b, ?_, fun e he => ?_⟩
    · rw [OutputGrew] at *; rw [hb, ha, List.append_assoc]
    · rcases List.mem_append.mp he with he | he
      exacts [hae e he, hbe e he]
  time := h'.time ∘ h.time
  startTime ht hs := h'.startTime (h.time ht) (h.startTime ht hs)
  fragmentCount := h'.fragmentCount ∘ h.fragmentCount
  dissocCount := h'.dissocCount ∘ h.dissocCount
  fragBuffer hb := by
    have := h'.fragBuffer
    rw [h.outside.params] at this
    exact this (h.fragBuffer hb)
  stopped hs := h'.stopped (h.stopped hs)

/-- A state that differs only in fields whose values carry no bound. -/
theorem MacStep.of_eq {s t : State} (ho : OutsideMac s t) (hout : t.output = s.output) (ht : t.time = s.time)
    (hf : t.frag = s.frag) (hb : t.burst.dissocCount = s.burst.dissocCount) : MacStep s t where
  outside := ho
  grew := ⟨[], by simp [OutputGrew, hout]⟩
  time := by simp [ht]
  startTime := by simp [hf]
  fragmentCount := by simp [hf]
  dissocCount := by simp [hb]
  fragBuffer := by simp [hf]
  stopped := by simp [hf]

theorem macStep_log (s : State) (r : LogRecord) : MacStep s (s.log r) where
  outside := ⟨rfl, rfl, rfl, rfl, rfl, rfl, rfl, rfl⟩
  grew := ⟨[.log r], rfl, by simp⟩
  time := id
  startTime _ := id
  fragmentCount := id
  dissocCount := id
  fragBuffer := id
  stopped := id

theorem macStep_emit (s : State) (ch : LogicalChannel) (v : Bits) : MacStep s (s.emit ch v) := by
  unfold State.emit
  split
  · exact .refl s
  · rename_i h
    exact ⟨⟨rfl, rfl, rfl, rfl, rfl, rfl, rfl, rfl⟩, ⟨_, rfl, by simpa using h⟩, id, fun _ => id, id, id, id, id⟩

theorem macStep_setMac (s : State) (x : MacState) : MacStep s (s.setMac x) :=
  .of_eq ⟨rfl, rfl, rfl, rfl, rfl, rfl, rfl, rfl⟩ rfl rfl rfl rfl

theorem macStep_setAddr (s : State) (x : MacAddress) : MacStep s (s.setAddr x) :=
  .of_eq ⟨rfl, rfl, rfl, rfl, rfl, rfl, rfl, rfl⟩ rfl rfl rfl rfl

theorem macStep_setCell (s : State) (x : CellState) : MacStep s (s.setCell x) :=
  .of_eq ⟨rfl, rfl, rfl, rfl, rfl, rfl, rfl, rfl⟩ rfl rfl rfl rfl

theorem macStep_setMarkerEncryption (s : State) (um : BitVec 6) (mode : BitVec 2) :
    MacStep s (s.setMarkerEncryption um mode) :=
  .of_eq ⟨rfl, rfl, rfl, rfl, rfl, rfl, rfl, rfl⟩ rfl rfl rfl rfl

/-! ### Time and the defragmenter -/

theorem timeNext_wf {t : TetraTime} (h : t.wf = true) : (timeNext t).wf = true := by
  simp only [TetraTime.wf, Bool.and_eq_true, decide_eq_true_eq] at h
  unfold timeNext
  split
  · simp [TetraTime.wf]; omega
  · split
    · simp [TetraTime.wf]; omega
    · split <;> simp [TetraTime.wf]; omega

theorem macStep_setTime (s : State) (t : TetraTime) (h : s.time.wf = true → t.wf = true) : MacStep s (s.setTime t) where
  outside := ⟨rfl, rfl, rfl, rfl, rfl, rfl, rfl, rfl⟩
  grew := ⟨[], by simp [OutputGrew]⟩
  time := h
  startTime _ := id
  fragmentCount := id
  dissocCount := id
  fragBuffer := id
  stopped := id

theorem macStep_timeInc (s : State) : MacStep s (timeInc s) := macStep_setTime s _ timeNext_wf

/-- `TIME_SET` for a code below 4. -/
theorem macStep_timeSet (s : State) {tnCode : Nat} (h : tnCode < 4) (fn mn : Nat) : MacStep s (timeSet tnCode fn mn s) := by
  unfold timeSet
  split
  · refine macStep_setTime s _ fun _ => ?_
    simp [TetraTime.wf]; omega
  · exact macStep_log _ _

theorem macStep_fragStop (s : State) : MacStep s (fragStop s) where
  outside := ⟨rfl, rfl, rfl, rfl, rfl, rfl, rfl, rfl⟩
  grew := ⟨[], by simp [OutputGrew, fragStop]⟩
  time := id
  startTime _ := id
  fragmentCount := id
  dissocCount := id
  fragBuffer _ := Nat.zero_le _
  stopped _ _ := rfl

/-- `FRAG_START` under a time in range. -/
theorem macStep_fragStart (s : State) (a : MacAddress) (t : TetraTime) (ht : s.time.wf = true → t.wf = true) :
    MacStep s (fragStart a t s) := by
  have key : ∀ u : State, MacStep u (u.setFrag ⟨false, a, a.ssi, t, 0, [], a.encryptionMode, a.usageMarker⟩) ∨ ¬ (u.time.wf = true → t.wf = true) := by
    intro u
    by_cases hu : u.time.wf = true → t.wf = true
    · exact .inl ⟨⟨rfl, rfl, rfl, rfl, rfl, rfl, rfl, rfl⟩, ⟨[], by simp [OutputGrew]⟩, id, fun h _ => hu h, fun _ => Nat.zero_le _, id,
        fun _ => Nat.zero_le _, fun _ _ => rfl⟩
    · exact .inr hu
  unfold fragStart
  split
  · exact (key s).resolve_right (by simpa using ht)
  · exact (macStep_log s _).trans ((key _).resolve_right (by simpa using ht))

theorem macStep_fragAppend (s : State) (v : Bits) (a : MacAddress) : MacStep s (fragAppend v a s) := by
  unfold fragAppend
  split
  · exact macStep_log _ _
  · split
    · exact (macStep_fragStop s).trans (macStep_log _ _)
    · split
      · exact (macStep_fragStop s).trans (macStep_log _ _)
      · rename_i hs _ hl
        refine ⟨⟨rfl, rfl, rfl, rfl, rfl, rfl, rfl, rfl⟩, ⟨[], by simp [OutputGrew]⟩, id, fun _ => id, fun _ => ?_, id, fun _ => ?_, fun _ h => ?_⟩
        · exact Nat.min_le_right _ _
        · simpa [append] using Nat.not_lt.mp hl
        · exact absurd h (by simpa using hs)

/-! ### The dissection units -/

theorem bitsToNat_le (v : Bits) : bitsToNat v < 2 ^ v.length := by
  have h : ∀ (v : Bits) (r : Nat), v.foldl (fun r b => 2 * r + b.toNat) r < (r + 1) * 2 ^ v.length := by
    intro v
    induction v with
    | nil => intro r; simp
    | cons b v ih =>
      intro r
      rw [List.foldl_cons, List.length_cons, Nat.pow_succ, Nat.mul_comm _ 2, ← Nat.mul_assoc]
      refine Nat.lt_of_lt_of_le (ih _) (Nat.mul_le_mul_right _ ?_)
      cases b <;> simp <;> omega
  simpa [bitsToNat] using h v 0

/-- A field read gives a number of its width (40 R141). -/
theorem getValue_lt {v : Bits} {pos n x : Nat} (h : getValue v pos n = .ok x) : x < 2 ^ n := by
  unfold getValue at h
  split at h
  · cases h
  · cases h
    refine Nat.lt_of_lt_of_le (bitsToNat_le _) (Nat.pow_le_pow_right (by omega) ?_)
    simp

theorem macStep_setUsage (s : State) (u : DownlinkUsage × Option (BitVec 6)) : MacStep s (setUsage s u) := macStep_setMac _ _

theorem macStep_dissectAach {a : Bits} {s t : State} (h : dissectAach a s = .ok t) : MacStep s t := by
  unfold dissectAach at h
  simp only [bind, Except.bind, pure, Except.pure] at h
  repeat' split at h
  all_goals first | cases h; done | skip
  cases h
  exact (macStep_setUsage _ _).trans (macStep_emit _ _ _)

theorem parseBsch_tnCode {b : Bits} {f : BschFields} (h : parseBsch b = .ok f) : f.tnCode < 4 := by
  unfold parseBsch at h
  simp only [bind, Except.bind, pure, Except.pure] at h
  repeat' split at h
  all_goals first | cases h; done | skip
  rename_i hc _ _ _ _ _ _ _ _
  cases h
  first | exact getValue_lt hc | (rename_i h1 h2 h3 h4 h5 h6 h7 h8; first | exact getValue_lt ‹getValue b 10 2 = .ok _›)

theorem macStep_commitBsch (f : BschFields) (b : Bits) (s : State) (h : f.tnCode < 4) : MacStep s (commitBsch f b s) :=
  (macStep_setCell _ _).trans ((macStep_timeSet _ h _ _).trans ((macStep_log _ _).trans (macStep_emit _ _ _)))

theorem macStep_dissectBsch {b : Bits} {s t : State} (h : dissectBsch b s = .ok t) : MacStep s t := by
  unfold dissectBsch at h
  split at h
  · cases h; exact macStep_log _ _
  · simp only [bind, Except.bind, pure, Except.pure] at h
    split at h
    · cases h
    · rename_i f hf
      cases h
      exact macStep_commitBsch _ _ _ (parseBsch_tnCode hf)

theorem macStep_dissectSysinfo {p : Bits} {ch : SigChannel} {s t : State} {r : UnitResult}
    (h : dissectSysinfo p ch s = .ok (r, t)) : MacStep s t := by
  unfold dissectSysinfo at h
  split at h
  · cases h; exact macStep_log _ _
  · simp only [bind, Except.bind, pure, Except.pure] at h
    split at h
    · cases h
    · cases h; exact (macStep_setCell _ _).trans (macStep_emit _ _ _)

theorem macStep_commitAddress (a : MacAddress) (enc : BitVec 2) (addrType : Nat) (s : State) :
    MacStep s (commitAddress a enc addrType s) := by
  simp only [commitAddress]
  split
  · exact (macStep_setAddr s _).trans (macStep_setMarkerEncryption _ _ _)
  · exact macStep_setAddr s _

theorem macStep_commitLength (p : Bits) (ch : SigChannel) (li : BitVec 6) (pos : Nat) (s : State) :
    MacStep s (commitLength p ch li pos s).2 := by
  unfold commitLength
  split
  · exact (macStep_fragStart s s.addr s.time id).trans (macStep_fragAppend _ _ _)
  · split
    · exact macStep_log _ _
    · simp only
      split
      · exact (macStep_setMac s _).trans (macStep_emit _ _ _)
      · exact macStep_emit _ _ _

theorem macStep_dissectMacResource {p : Bits} {ch : SigChannel} {s t : State} {r : UnitResult}
    (h : dissectMacResource p ch s = .ok (r, t)) : MacStep s t := by
  unfold dissectMacResource at h
  simp only [bind, Except.bind, pure, Except.pure] at h
  split at h
  · cases h
  · split at h
    · cases h; exact .refl s
    · rename_i p' enc li at' a pos _
      have h' := Except.ok.inj h
      rw [Prod.ext_iff] at h'
      simp only at h'
      rw [← h'.2]
      exact (macStep_commitAddress a enc at' s).trans (macStep_commitLength p' ch li pos _)

theorem macStep_dissectMacFrag {p : Bits} {s t : State} {r : UnitResult}
    (h : dissectMacFrag p s = .ok (r, t)) : MacStep s t := by
  unfold dissectMacFrag at h
  simp only [bind, Except.bind, pure, Except.pure] at h
  split at h
  · cases h
  · cases h; exact macStep_fragAppend _ _ _

theorem macStep_commitMacEnd (p : Bits) (ch : SigChannel) (pos : Nat) (s : State) : MacStep s (commitMacEnd p ch pos s) :=
  (macStep_fragAppend _ _ _).trans ((macStep_emit _ _ _).trans ((macStep_fragStop _).trans
    (macStep_setMarkerEncryption _ _ _)))

theorem macStep_dissectMacEnd {p : Bits} {ch : SigChannel} {s t : State} {r : UnitResult}
    (h : dissectMacEnd p ch s = .ok (r, t)) : MacStep s t := by
  unfold dissectMacEnd at h
  simp only [bind, Except.bind, pure, Except.pure] at h
  repeat' split at h
  all_goals first | cases h; done | skip
  · cases h; exact macStep_log _ _
  · cases h; exact macStep_commitMacEnd _ _ _ _

theorem macStep_dissectMacDBlck {p : Bits} {s t : State} {r : UnitResult}
    (h : dissectMacDBlck p s = .ok (r, t)) : MacStep s t := by
  unfold dissectMacDBlck at h
  simp only [bind, Except.bind, pure, Except.pure] at h
  repeat' split at h
  all_goals first | cases h; done | skip
  cases h
  exact (macStep_setAddr _ _).trans (macStep_emit _ _ _)

theorem macStep_dissectOne {p : Bits} {ch : SigChannel} {s t : State} {r : UnitResult}
    (h : dissectOne p ch s = .ok (r, t)) : MacStep s t := by
  unfold dissectOne at h
  simp only [bind, Except.bind, pure, Except.pure] at h
  repeat' split at h
  all_goals first
    | cases h; done
    | exact macStep_dissectMacResource h
    | exact macStep_dissectMacFrag h
    | exact macStep_dissectMacEnd h
    | exact macStep_dissectSysinfo h
    | exact macStep_dissectMacDBlck h
    | (cases h; exact .refl s)
    | (cases h; exact macStep_log _ _)

theorem macStep_caught {s : State} {x : Except OutOfRange State} (h : ∀ t, x = .ok t → MacStep s t) :
    MacStep s (caught s x) := by
  rcases caught_cases s x with ⟨s', hx, hc⟩ | ⟨e, -, hc⟩
  · rw [hc]; exact h s' hx
  · rw [hc]; exact macStep_log _ _

/-! ### The dissociation loop -/

/-- A unit leaves the restart count alone. -/
def SameCount (s t : State) : Prop := t.burst.dissocCount = s.burst.dissocCount

theorem burst_fragAppend (v : Bits) (a : MacAddress) (s : State) : (fragAppend v a s).burst = s.burst := by
  unfold fragAppend fragStop; repeat' split
  all_goals rfl

theorem burst_fragStart (a : MacAddress) (t : TetraTime) (s : State) : (fragStart a t s).burst = s.burst := by
  unfold fragStart; simp only; split <;> rfl

/-- No unit writes the per-burst state (45 R300). -/
theorem burst_dissectOne {p : Bits} {ch : SigChannel} {s t : State} {r : UnitResult}
    (h : dissectOne p ch s = .ok (r, t)) : t.burst = s.burst := by
  unfold dissectOne dissectMacResource dissectMacFrag dissectMacEnd dissectMacDBlck dissectSysinfo dissectAccessDefine
    ignoreReserved commitMacEnd commitLength commitAddress at h
  simp only [bind, Except.bind, pure, Except.pure] at h
  repeat' split at h
  all_goals first
    | cases h; done
    | (cases h; simp [burst_fragAppend, burst_fragStart, fragStop, setStolen])

theorem macStep_countRestart {s : State} (h : s.burst.dissocCount < 32) : MacStep s (countRestart s) where
  outside := ⟨rfl, rfl, rfl, rfl, rfl, rfl, rfl, rfl⟩
  grew := ⟨[], by simp [OutputGrew, countRestart]⟩
  time := id
  startTime _ := id
  fragmentCount := id
  dissocCount _ := h
  fragBuffer := id
  stopped := id

theorem macStep_dissociate (ch : SigChannel) (budget : Nat) : ∀ (p : Bits) (s : State),
    s.burst.dissocCount + budget ≤ 32 ∨ budget = 0 → MacStep s (dissociate ch budget p s) := by
  induction budget with
  | zero =>
    intro p s _
    unfold dissociate
    split
    · exact macStep_log _ _
    · rename_i r s' h
      split
      · exact macStep_dissectOne h
      · exact (macStep_dissectOne h).trans (macStep_log _ _)
  | succ budget ih =>
    intro p s hb
    unfold dissociate
    split
    · exact macStep_log _ _
    · rename_i r s' h
      have hc : s'.burst.dissocCount = s.burst.dissocCount := by rw [burst_dissectOne h]
      split
      · exact macStep_dissectOne h
      · refine (macStep_dissectOne h).trans ((macStep_countRestart (by omega)).trans (ih _ _ (.inl ?_)))
        simp [countRestart]; omega

theorem macStep_dissociationLoop (blk : Bits) (ch : SigChannel) (s : State) : MacStep s (dissociationLoop blk ch s) := by
  refine macStep_dissociate ch _ blk s ?_
  unfold dissocMax
  omega

theorem macStep_umacDispatch (blk : Bits) (ch : LogicalChannel) (s : State) : MacStep s (umacDispatch blk ch s) := by
  unfold umacDispatch
  split
  · exact macStep_caught fun _ => macStep_dissectAach
  · exact macStep_caught fun _ => macStep_dissectBsch
  · exact macStep_emit _ _ _
  · exact macStep_dissociationLoop _ _ _
  · exact macStep_dissociationLoop _ _ _
  · exact macStep_dissociationLoop _ _ _
  · exact macStep_dissociationLoop _ _ _
  · exact macStep_log _ _
  · exact macStep_log _ _
  · exact macStep_log _ _

theorem macStep_handoff (blk : Bits) (ch : LogicalChannel) (s : State) : MacStep s (handoff blk ch s) :=
  (macStep_setMac s _).trans (macStep_umacDispatch blk ch _)

/-! ### The lower MAC -/

theorem macStep_fecDecodeBlock (x : Bits) (key : BitVec 32) (size : BlockSize) (s : State) :
    MacStep s (fecDecodeBlock x key size s).2 := by
  simp only [fecDecodeBlock]
  split
  · exact .refl s
  · exact macStep_log _ _

theorem macStep_decodeAndHandoff (x : Bits) (key : BitVec 32) (size : BlockSize) (ch : LogicalChannel) (s : State) :
    MacStep s (decodeAndHandoff x key size ch s) := by
  have h := macStep_fecDecodeBlock x key size s
  unfold decodeAndHandoff
  split
  · rename_i he; rw [he] at h; exact h.trans (macStep_handoff _ _ _)
  · rename_i he; rw [he] at h; exact h

theorem macStep_lmacSb (w : Bits) (s : State) : MacStep s (lmacSb w s) :=
  (macStep_decodeAndHandoff _ _ _ _ _).trans ((macStep_handoff _ _ _).trans (macStep_decodeAndHandoff _ _ _ _ _))

theorem macStep_lmacNdb (w : Bits) (s : State) : MacStep s (lmacNdb w s) := by
  have h : MacStep s (aachHandoff (ndbBbk w) s) := macStep_handoff _ _ _
  refine h.trans ?_
  simp only [lmacNdb]
  split
  · exact macStep_handoff _ _ _
  · exact macStep_decodeAndHandoff _ _ _ _ _

theorem macStep_lmacBkn2 (w : Bits) (traffic : Bool) (s : State) : MacStep s (lmacBkn2 w traffic s) := by
  unfold lmacBkn2
  split
  · exact macStep_log _ _
  · exact macStep_decodeAndHandoff _ _ _ _ _

theorem macStep_lmacNdbSf (w : Bits) (s : State) : MacStep s (lmacNdbSf w s) :=
  (macStep_handoff _ _ _).trans ((macStep_decodeAndHandoff _ _ _ _ _).trans (macStep_lmacBkn2 _ _ _))

theorem macStep_clearBurst (s : State) : MacStep s (clearBurst s) where
  outside := ⟨rfl, rfl, rfl, rfl, rfl, rfl, rfl, rfl⟩
  grew := ⟨[], by simp [OutputGrew, clearBurst, setStolen]⟩
  time := id
  startTime _ := id
  fragmentCount := id
  dissocCount _ := Nat.zero_le _
  fragBuffer := id
  stopped := id

theorem macStep_lmacBurst (w : Bits) (type : BurstClass) (s : State) : MacStep s (lmacBurst w type s) := by
  unfold lmacBurst
  split
  · exact (macStep_clearBurst s).trans (macStep_lmacSb _ _)
  · exact (macStep_clearBurst s).trans (macStep_lmacNdb _ _)
  · exact (macStep_clearBurst s).trans (macStep_lmacNdbSf _ _)

theorem macStep_processBurst (w : Bits) (s : State) : MacStep s (processBurst w s) := by
  unfold processBurst
  split
  · exact macStep_log _ _
  · have h : MacStep s (s.setBurst { s.burst with type := burstClass s.params w }) :=
      .of_eq ⟨rfl, rfl, rfl, rfl, rfl, rfl, rfl, rfl⟩ rfl rfl rfl rfl
    exact h.trans (macStep_lmacBurst w _ _)

end Sys2Proof.Machine
end

