-- ==== Sys2Proof/Laws/Exec.lean ====
section
/-! SUPPORT. What an operation can do to the state, said once: all but seven make a `MacStep` and return a value; the seven have their own lemmas. -/

set_option Elab.async false -- many small lemmas: elaborated one after another, which keeps the threads few

namespace Sys2Proof.Machine

theorem macStep_answerUnit {s t : State} {x : Except OutOfRange (UnitResult × State)}
    (hx : ∀ r u, x = .ok (r, u) → MacStep s u) (h : answerUnit s x = .next t) :
    ∃ u r, MacStep s u ∧ t = u.returns r := by
  rcases answerUnit_next.mp h with ⟨r, u, hu, rfl⟩ | ⟨e, _, rfl⟩
  exacts [⟨_, _, hx _ _ hu, rfl⟩, ⟨_, _, macStep_log _ _, rfl⟩]

theorem macStep_answerPlain {s t : State} {x : Except OutOfRange State}
    (hx : ∀ u, x = .ok u → MacStep s u) (h : answerPlain s x = .next t) :
    ∃ u r, MacStep s u ∧ t = u.returns r := by
  rcases answerPlain_next.mp h with ⟨u, hu, rfl⟩ | ⟨e, _, rfl⟩
  exacts [⟨_, _, hx _ hu, rfl⟩, ⟨_, _, macStep_log _ _, rfl⟩]

/-- The operations that do more than a part of the MAC may: they write the synchronizer, a stored vector, the control flag, or a time they are handed. -/
def outsideMac : Instr → Bool
  | .rxSymbol _ | .syncMatch _ | .bvAppend .. | .reset | .stop | .ioError | .fragStart .. => true
  | _ => false

/-- Every other operation that goes on makes a `MacStep` and returns a value. -/
theorem exec_macStep {i : Instr} {s t : State} (hi : outsideMac i = false) (h : exec i s = .next t) :
    ∃ u r, MacStep s u ∧ t = u.returns r := by
  cases i
  all_goals try (cases hi; done)
  case processBurst w =>
    simp only [exec, execProcessBurst, inDomain_next, answer_next] at h
    exact ⟨_, _, macStep_processBurst _ _, h.2⟩
  case lmacBurst w _ =>
    simp only [exec, execLmacBurst, inDomain_next, answer_next] at h
    exact ⟨_, _, macStep_lmacBurst _ _ _, h.2⟩
  case lmacSb w =>
    simp only [exec, execLmacSb, inDomain_next, answer_next] at h
    exact ⟨_, _, macStep_lmacSb _ _, h.2⟩
  case lmacNdb w =>
    simp only [exec, execLmacNdb, inDomain_next, answer_next] at h
    exact ⟨_, _, macStep_lmacNdb _ _, h.2⟩
  case lmacNdbSf w =>
    simp only [exec, execLmacNdbSf, inDomain_next, answer_next] at h
    exact ⟨_, _, macStep_lmacNdbSf _ _, h.2⟩
  case fecDecodeBlock =>
    simp only [exec, execFecDecodeBlock, inDomain_next, answer_next] at h
    exact ⟨_, _, macStep_fecDecodeBlock _ _ _ _, h.2⟩
  case timeInc =>
    simp only [exec, execTimeInc, answer_next] at h
    exact ⟨_, _, macStep_timeInc _, h⟩
  case timeSet tn _ _ =>
    simp only [exec, execTimeSet, answer_next] at h
    exact ⟨_, _, macStep_timeSet _ tn.isLt _ _, h⟩
  case umacDispatch =>
    simp only [exec, execUmacDispatch, answer_next] at h
    exact ⟨_, _, macStep_umacDispatch _ _ _, h⟩
  case dissociationLoop =>
    simp only [exec, execDissociationLoop, answer_next] at h
    exact ⟨_, _, macStep_dissociationLoop _ _ _, h⟩
  case emitTchS =>
    simp only [exec, execEmitTchS, answer_next] at h
    exact ⟨_, _, macStep_emit _ _ _, h⟩
  case emit =>
    simp only [exec, execEmit, answer_next] at h
    exact ⟨_, _, macStep_emit _ _ _, h⟩
  case fragAppend =>
    simp only [exec, execFragAppend, answer_next] at h
    exact ⟨_, _, macStep_fragAppend _ _ _, h⟩
  case fragStop =>
    simp only [exec, execFragStop, answer_next] at h
    exact ⟨_, _, macStep_fragStop _, h⟩
  case dissectAach =>
    simp only [exec, execDissectAach] at h
    exact macStep_answerPlain (fun _ => macStep_dissectAach) h
  case aachFrame18 =>
    simp only [exec, execAachFrame18, aachRow] at h
    exact macStep_answerPlain (fun _ => macStep_dissectAach) h
  case aachHeader00 =>
    simp only [exec, execAachHeader00, aachRow] at h
    exact macStep_answerPlain (fun _ => macStep_dissectAach) h
  case aachUnallocated =>
    simp only [exec, execAachUnallocated, aachRow] at h
    exact macStep_answerPlain (fun _ => macStep_dissectAach) h
  case aachAssigned =>
    simp only [exec, execAachAssigned, aachRow] at h
    exact macStep_answerPlain (fun _ => macStep_dissectAach) h
  case aachCommon =>
    simp only [exec, execAachCommon, aachRow] at h
    exact macStep_answerPlain (fun _ => macStep_dissectAach) h
  case aachReserved =>
    simp only [exec, execAachReserved, aachRow] at h
    exact macStep_answerPlain (fun _ => macStep_dissectAach) h
  case aachTraffic =>
    simp only [exec, execAachTraffic, aachRow] at h
    exact macStep_answerPlain (fun _ => macStep_dissectAach) h
  case dissectBsch =>
    simp only [exec, execDissectBsch] at h
    exact macStep_answerPlain (fun _ => macStep_dissectBsch) h
  case dissectSysinfo =>
    simp only [exec, execDissectSysinfo] at h
    exact macStep_answerUnit (fun _ _ => macStep_dissectSysinfo) h
  case dissectMacResource =>
    simp only [exec, execDissectMacResource] at h
    exact macStep_answerUnit (fun _ _ => macStep_dissectMacResource) h
  case dissectMacFrag =>
    simp only [exec, execDissectMacFrag] at h
    exact macStep_answerUnit (fun _ _ => macStep_dissectMacFrag) h
  case dissectMacEnd =>
    simp only [exec, execDissectMacEnd] at h
    exact macStep_answerUnit (fun _ _ => macStep_dissectMacEnd) h
  case dissectMacDBlck =>
    simp only [exec, execDissectMacDBlck] at h
    exact macStep_answerUnit (fun _ _ => macStep_dissectMacDBlck) h
  case dissectAccessDefine =>
    simp only [exec, execDissectAccessDefine] at h
    exact macStep_answerUnit (fun _ _ e => by cases e; exact .refl s) h
  case ignoreReserved =>
    simp only [exec, execIgnoreReserved] at h
    exact macStep_answerUnit (fun _ _ e => by cases e; exact macStep_log _ _) h
  case macResource =>
    simp only [exec, execMacResource, dissectRow] at h
    exact macStep_answerUnit (fun _ _ => macStep_dissectOne) h
  case macFrag =>
    simp only [exec, execMacFrag, dissectRow] at h
    exact macStep_answerUnit (fun _ _ => macStep_dissectOne) h
  case macEnd =>
    simp only [exec, execMacEnd, dissectRow] at h
    exact macStep_answerUnit (fun _ _ => macStep_dissectOne) h
  case sysinfo =>
    simp only [exec, execSysinfo, dissectRow] at h
    exact macStep_answerUnit (fun _ _ => macStep_dissectOne) h
  case accessDefine =>
    simp only [exec, execAccessDefine, dissectRow] at h
    exact macStep_answerUnit (fun _ _ => macStep_dissectOne) h
  case reserved10x =>
    simp only [exec, execReserved10x, dissectRow] at h
    exact macStep_answerUnit (fun _ _ => macStep_dissectOne) h
  case macDBlck =>
    simp only [exec, execMacDBlck, dissectRow] at h
    exact macStep_answerUnit (fun _ _ => macStep_dissectOne) h
  case reserved11 =>
    simp only [exec, execReserved11, dissectRow] at h
    exact macStep_answerUnit (fun _ _ => macStep_dissectOne) h
  case burstSb =>
    simp only [exec, execBurstSb, burstRow, inDomain_next, answer_next] at h
    exact ⟨_, _, macStep_processBurst _ _, h.2⟩
  case burstNdb =>
    simp only [exec, execBurstNdb, burstRow, inDomain_next, answer_next] at h
    exact ⟨_, _, macStep_processBurst _ _, h.2⟩
  case burstNdbSf =>
    simp only [exec, execBurstNdbSf, burstRow, inDomain_next, answer_next] at h
    exact ⟨_, _, macStep_processBurst _ _, h.2⟩
  all_goals
    simp only [exec] at h
    first
    | exact ⟨_, _, .refl s, answer_next.mp h⟩
    | exact ⟨_, _, .refl s, answer_next.mp (inDomain_next.mp h).2⟩

end Sys2Proof.Machine
end

