-- ==== Sys2Proof/Laws/Readers.lean ====
section
/-! SUPPORT. What each reader reads back: a writer's bits in front of any others give the value, and leave the others. -/

namespace Sys2Proof

open Machine

@[simp] theorem natToBits_length (k n : Nat) : (natToBits k n).length = k := by
  induction k with
  | zero => rfl
  | succ k ih => simp [natToBits, ih]

@[simp] theorem bvToBits_length {k : Nat} (x : BitVec k) : (bvToBits x).length = k := natToBits_length k _

theorem bitsToNat_foldl (v : Bits) : ∀ r,
    v.foldl (fun r b => 2 * r + b.toNat) r = r * 2 ^ v.length + bitsToNat v := by
  induction v with
  | nil => intro r; simp [bitsToNat]
  | cons b v ih =>
    intro r
    rw [bitsToNat, List.foldl_cons, List.foldl_cons, ih, ih (2 * 0 + _), List.length_cons, Nat.pow_succ]
    ring

theorem bitsToNat_cons (b : Bool) (v : Bits) : bitsToNat (b :: v) = b.toNat * 2 ^ v.length + bitsToNat v := by
  simpa [bitsToNat] using bitsToNat_foldl v b.toNat

theorem bitsToNat_append (u v : Bits) : bitsToNat (u ++ v) = bitsToNat u * 2 ^ v.length + bitsToNat v := by
  rw [bitsToNat, List.foldl_append, bitsToNat_foldl]
  rfl

theorem bitsToNat_lt (v : Bits) : bitsToNat v < 2 ^ v.length := by
  induction v with
  | nil => simp [bitsToNat]
  | cons b v ih =>
    rw [bitsToNat_cons, List.length_cons, Nat.pow_succ]
    cases b <;> simp <;> omega

/-- A number written in `k` bits and read back. -/
theorem bitsToNat_natToBits (k n : Nat) : bitsToNat (natToBits k n) = n % 2 ^ k := by
  induction k with
  | zero => simp [natToBits, bitsToNat, Nat.mod_one]
  | succ k ih =>
    rw [natToBits, bitsToNat_cons, ih, natToBits_length, Nat.mod_pow_succ, Nat.testBit_eq_decide_div_mod_eq]
    rcases Nat.mod_two_eq_zero_or_one (n / 2 ^ k) with h | h <;> simp [h, Nat.add_comm]

@[simp] theorem bitsToNat_bvToBits {k : Nat} (x : BitVec k) : bitsToNat (bvToBits x) = x.toNat := by
  rw [bvToBits, bitsToNat_natToBits, Nat.mod_eq_of_lt x.isLt]

/-- `g` reads `a` from the bits `e`, whatever follows them. -/
def Reads {α : Type} (g : Get α) (e : Bits) (a : α) : Prop := ∀ rest, g (e ++ rest) = .ok (a, rest)

theorem reads_value {α : Type} (a : α) : Reads (Get.value a) [] a := fun _ => rfl

theorem Reads.bind {α β : Type} {g : Get α} {f : α → Get β} {e e' : Bits} {a : α} {b : β}
    (h : Reads g e a) (h' : Reads (f a) e' b) : Reads (g.bind f) (e ++ e') b := fun rest => by
  rw [List.append_assoc, Get.bind, h]
  exact h' rest

/-- A reader followed by one that reads nothing. -/
theorem Reads.bindValue {α β : Type} {g : Get α} {f : α → Get β} {e : Bits} {a : α} {b : β}
    (h : Reads g e a) (h' : Reads (f a) [] b) : Reads (g.bind f) e b := fun rest => by
  have := (h.bind h') rest
  rwa [List.append_nil] at this

theorem Reads.map {α β : Type} {g : Get α} {e : Bits} {a : α} (f : α → β) (h : Reads g e a) :
    Reads (g.map f) e (f a) := fun rest => by
  simp only [Get.map, Get.bind, h rest]; rfl

theorem Reads.choose {α β : Type} {g : Get α} {e : Bits} {a : α} {b : β} {f : α → Option β}
    (h : Reads g e a) (hb : f a = some b) : Reads (g.choose f) e b := fun rest => by
  simp only [Get.choose, Get.bind, h rest, hb]; rfl

theorem reads_bits {n : Nat} {v : Bits} (h : v.length = n) : Reads (getBits n) v v := fun rest => by
  subst h
  simp [getBits]

theorem reads_bv {k : Nat} (x : BitVec k) : Reads (getBv k) (bvToBits x) x := by
  have h := (reads_bits (bvToBits_length x)).map fun v => BitVec.ofNat k (bitsToNat v)
  rw [bitsToNat_bvToBits, BitVec.ofNat_toNat, BitVec.setWidth_eq] at h
  exact h

theorem reads_nat {n : Nat} (h : natOk n = true) : Reads getNat (putNat n) n := by
  have hr := (reads_bv (BitVec.ofNat 16 n)).map BitVec.toNat
  simp only [natOk, decide_eq_true_eq] at h
  rw [BitVec.toNat_ofNat, Nat.mod_eq_of_lt h] at hr
  exact hr

theorem reads_int {n : Int} (h : intOk n = true) : Reads getInt (putInt n) n := by
  have hr := (reads_bv (BitVec.ofInt 16 n)).map BitVec.toInt
  simp only [intOk, Bool.and_eq_true, decide_eq_true_eq] at h
  rw [BitVec.toInt_ofInt_eq_self (by decide) (by omega) (by omega)] at hr
  exact hr

theorem reads_vec {v : Bits} (h : vecOk v = true) : Reads getVec (putVec v) v := (reads_nat h).bind (reads_bits rfl)

theorem reads_bool (b : Bool) : Reads getBool (putBool b) b := by
  have h := (reads_bv (BitVec.ofBool b)).map fun x => x == 1
  cases b <;> exact h

theorem reads_size (x : BlockSize) : Reads getSize (putSize x) x := (reads_bv _).choose (by cases x <;> rfl)

theorem reads_class (x : BurstClass) : Reads getClass (putClass x) x := (reads_bv _).choose (by cases x <;> rfl)

theorem reads_channel (x : LogicalChannel) : Reads getChannel (putChannel x) x := (reads_bv _).choose (by cases x <;> rfl)

theorem reads_sig (x : SigChannel) : Reads getSig (putSig x) x := by
  have h := (reads_bv (sigChannelCode x)).map sigChannelOfCode
  cases x <;> exact h

theorem reads_syms (ys : List Sym) : Reads (getSyms ys.length) (putSyms ys) ys := by
  induction ys with
  | nil => exact reads_value []
  | cons y ys ih => exact ((reads_bv _).choose (by cases y <;> rfl)).bind (ih.map _)

theorem reads_operand {v : VecOperand} (h : v.wf = true) : Reads getOperand (putOperand v) v := by
  cases v with
  | value v => exact (reads_bv _).bind ((reads_vec h).map _)
  | syncBuffer => exact (reads_bv 0b01#2).bindValue (reads_value VecOperand.syncBuffer)
  | fragBuffer => exact (reads_bv 0b10#2).bindValue (reads_value VecOperand.fragBuffer)

theorem reads_address (a : MacAddress) : Reads getAddress (putAddress a) a := by
  simp only [putAddress, List.append_assoc]
  exact (reads_bv _).bind ((reads_bv _).bind ((reads_bv _).bind ((reads_bv _).bind ((reads_bv _).bind
    ((reads_bv _).bind ((reads_bv _).map _))))))

theorem reads_time {t : TetraTime} (h : t.wf = true) : Reads getTime (putTime t) t := by
  obtain ⟨tn, fn, mn⟩ := t
  simp only [TetraTime.wf, Bool.and_eq_true, decide_eq_true_eq] at h
  have hr := (reads_bv (BitVec.ofNat 2 (tn - 1))).bind (f := fun tn => (getBv 5).bind fun fn => (getBv 6).map fun mn =>
    (⟨tn.toNat + 1, fn.toNat + 1, mn.toNat + 1⟩ : TetraTime))
    ((reads_bv (BitVec.ofNat 5 (fn - 1))).bind ((reads_bv (BitVec.ofNat 6 (mn - 1))).map _))
  simp only [BitVec.toNat_ofNat] at hr
  rw [Nat.mod_eq_of_lt (by omega), Nat.mod_eq_of_lt (by omega), Nat.mod_eq_of_lt (by omega), Nat.sub_add_cancel h.1.1.1.1.1,
    Nat.sub_add_cancel h.1.1.1.2, Nat.sub_add_cancel h.1.2] at hr
  simp only [putTime, List.append_assoc]
  exact hr

theorem reads_optInt {n : Option Int} (h : n.all intOk = true) : Reads getOptInt (putOptInt n) n := by
  cases n with
  | none => exact (reads_bool false).bindValue (reads_value (none : Option Int))
  | some n => exact (reads_bool true).bind ((reads_int (by simpa using h)).map _)

theorem reads_why (y : ReservedWhy) : Reads getWhy (putWhy y) y := by
  cases y with
  | subtype t sub =>
    simp only [putWhy, List.append_assoc]
    exact (reads_bool false).bind ((reads_bv t).bind ((reads_bv sub).map _))
  | channel t ch =>
    simp only [putWhy, List.append_assoc]
    exact (reads_bool true).bind ((reads_bv t).bind ((reads_sig ch).map _))

/-- What the decoder answers on a word some reader reads whole, with any padding. -/
theorem decode_of_reads {i : Instr} {e : Bits} (h : Reads ((getBv 3).bind getFormat) e i) (hw : i.wf = true) (k : Nat) :
    decode (e ++ List.replicate k false) = .ok i := by
  simp [decode, h _, hw]

/-- Whatever the decoder answers is well-formed. -/
theorem decode_wf {w : Bits} {i : Instr} (h : decode w = .ok i) : i.wf = true := by
  simp only [decode] at h
  split at h
  · cases h
  · split at h
    · cases h
    · split at h
      · cases h; assumption
      · cases h

end Sys2Proof
end

