-- ==== Sys2Proof/Laws/PerInstr.lean ====
section
/-! SUPPORT. Statements made for every instruction, one lemma per constructor: the word an instruction is encoded with is one of its row of the opcode table (30 R116). -/

-- one theorem at a time: many small ones at once ask for more threads than the memory limit gives
set_option Elab.async false

namespace Sys2Proof.Laws

open Machine

/-- A row of the opcode table: the port's format tag, the width of the word, the mask and the match value. -/
structure TableRow where
  tag : BitVec 3
  width : Nat
  mask : Nat
  value : Nat
  deriving DecidableEq, Repr

/-- The row of each constructor, as spec/opcode_table.json gives it. -/
def rowOf : Instr → TableRow
  | .rxSymbol _ => ⟨0, 8, 0xff, 0x01⟩
  | .syncMatch _ => ⟨0, 8, 0xff, 0x02⟩
  | .processBurst _ => ⟨0, 8, 0xff, 0x03⟩
  | .bvSize _ => ⟨0, 8, 0xff, 0x10⟩
  | .bvGetValue _ _ _ => ⟨0, 8, 0xff, 0x11⟩
  | .bvExtract _ _ _ => ⟨0, 8, 0xff, 0x12⟩
  | .bvAppend _ _ => ⟨0, 8, 0xff, 0x13⟩
  | .bvFromOffset _ _ _ => ⟨0, 8, 0xff, 0x14⟩
  | .bvResize _ _ => ⟨0, 8, 0xff, 0x15⟩
  | .hamming _ _ => ⟨0, 8, 0xff, 0x16⟩
  | .descramble _ _ => ⟨0, 8, 0xff, 0x20⟩
  | .deinterleave _ _ => ⟨0, 8, 0xff, 0x21⟩
  | .depuncture23 _ => ⟨0, 8, 0xff, 0x22⟩
  | .viterbiDecode _ => ⟨0, 8, 0xff, 0x24⟩
  | .rmDecode _ => ⟨0, 8, 0xff, 0x26⟩
  | .crc16Check _ => ⟨0, 8, 0xff, 0x27⟩
  | .timeInc => ⟨0, 8, 0xff, 0x30⟩
  | .timeSet _ _ _ => ⟨0, 8, 0xff, 0x31⟩
  | .scrambleInit _ _ _ => ⟨0, 8, 0xff, 0x32⟩
  | .lmacBurst _ _ => ⟨0, 8, 0xff, 0x40⟩
  | .lmacSb _ => ⟨0, 8, 0xff, 0x41⟩
  | .lmacNdb _ => ⟨0, 8, 0xff, 0x42⟩
  | .lmacNdbSf _ => ⟨0, 8, 0xff, 0x43⟩
  | .fecDecodeBlock _ _ _ => ⟨0, 8, 0xff, 0x44⟩
  | .aachDecodeBlock _ _ => ⟨0, 8, 0xff, 0x45⟩
  | .umacDispatch _ _ => ⟨0, 8, 0xff, 0x50⟩
  | .dissectAach _ => ⟨0, 8, 0xff, 0x51⟩
  | .dissectBsch _ => ⟨0, 8, 0xff, 0x52⟩
  | .dissectSysinfo _ _ => ⟨0, 8, 0xff, 0x53⟩
  | .decodeLength _ => ⟨0, 8, 0xff, 0x54⟩
  | .dissectMacResource _ _ => ⟨0, 8, 0xff, 0x55⟩
  | .stripFillBits _ => ⟨0, 8, 0xff, 0x56⟩
  | .parseAddress _ _ _ => ⟨0, 8, 0xff, 0x57⟩
  | .parseChanAlloc _ _ => ⟨0, 8, 0xff, 0x58⟩
  | .dissectMacFrag _ _ => ⟨0, 8, 0xff, 0x59⟩
  | .dissectMacEnd _ _ => ⟨0, 8, 0xff, 0x5a⟩
  | .dissectMacDBlck _ => ⟨0, 8, 0xff, 0x5b⟩
  | .dissectAccessDefine _ _ => ⟨0, 8, 0xff, 0x5c⟩
  | .dissociationLoop _ _ => ⟨0, 8, 0xff, 0x5d⟩
  | .emitTchS _ => ⟨0, 8, 0xff, 0x5e⟩
  | .ignoreReserved _ _ _ => ⟨0, 8, 0xff, 0x5f⟩
  | .fragStart _ _ => ⟨0, 8, 0xff, 0x60⟩
  | .fragAppend _ _ => ⟨0, 8, 0xff, 0x61⟩
  | .fragGetSdu _ => ⟨0, 8, 0xff, 0x62⟩
  | .fragStop => ⟨0, 8, 0xff, 0x63⟩
  | .inputUnpack _ => ⟨0, 8, 0xff, 0x70⟩
  | .emit _ _ => ⟨0, 8, 0xff, 0x71⟩
  | .stop => ⟨0, 8, 0xff, 0x72⟩
  | .ioError => ⟨0, 8, 0xff, 0x73⟩
  | .reset => ⟨0, 8, 0xff, 0x74⟩
  | .macResource _ _ _ => ⟨3, 4, 0b1100, 0b0000⟩
  | .macFrag _ _ _ => ⟨3, 4, 0b1110, 0b0100⟩
  | .macEnd _ _ _ => ⟨3, 4, 0b1110, 0b0110⟩
  | .sysinfo _ _ => ⟨3, 4, 0b1111, 0b1000⟩
  | .accessDefine _ _ => ⟨3, 4, 0b1111, 0b1001⟩
  | .reserved10x _ _ _ => ⟨3, 4, 0b1110, 0b1010⟩
  | .macDBlck _ _ => ⟨3, 4, 0b1100, 0b1100⟩
  | .reserved11 _ _ _ => ⟨3, 4, 0b1100, 0b1100⟩
  | .liReserved0 => ⟨4, 6, 0b111111, 0b000000⟩
  | .liOctets1 => ⟨4, 6, 0b111111, 0b000001⟩
  | .liOctets2to3 _ => ⟨4, 6, 0b111110, 0b000010⟩
  | .liOctets4to7 _ => ⟨4, 6, 0b111100, 0b000100⟩
  | .liOctets8to15 _ => ⟨4, 6, 0b111000, 0b001000⟩
  | .liOctets16to17 _ => ⟨4, 6, 0b111110, 0b010000⟩
  | .liOctets18 => ⟨4, 6, 0b111111, 0b010010⟩
  | .liOctets19 => ⟨4, 6, 0b111111, 0b010011⟩
  | .liOctets20to23 _ => ⟨4, 6, 0b111100, 0b010100⟩
  | .liOctets24to31 _ => ⟨4, 6, 0b111000, 0b011000⟩
  | .liOctets32to47 _ => ⟨4, 6, 0b110000, 0b100000⟩
  | .liOctets48to55 _ => ⟨4, 6, 0b111000, 0b110000⟩
  | .liOctets56to57 _ => ⟨4, 6, 0b111110, 0b111000⟩
  | .liOctets58 => ⟨4, 6, 0b111111, 0b111010⟩
  | .liReserved59 => ⟨4, 6, 0b111111, 0b111011⟩
  | .liReserved60to61 _ => ⟨4, 6, 0b111110, 0b111100⟩
  | .liSecondHalfStolen => ⟨4, 6, 0b111111, 0b111110⟩
  | .liStartFragmenting => ⟨4, 6, 0b111111, 0b111111⟩
  | .atNull _ => ⟨5, 3, 0b111, 0b000⟩
  | .atSsi _ _ => ⟨5, 3, 0b111, 0b001⟩
  | .atEventLabel _ _ => ⟨5, 3, 0b111, 0b010⟩
  | .atUssi _ _ => ⟨5, 3, 0b111, 0b011⟩
  | .atSmi _ _ => ⟨5, 3, 0b111, 0b100⟩
  | .atSsiEventLabel _ _ => ⟨5, 3, 0b111, 0b101⟩
  | .atSsiUsageMarker _ _ => ⟨5, 3, 0b111, 0b110⟩
  | .atSmiEventLabel _ _ => ⟨5, 3, 0b111, 0b111⟩
  | .aachFrame18 _ _ _ => ⟨6, 8, 0b00000000, 0b00000000⟩
  | .aachHeader00 _ _ => ⟨6, 8, 0b11000000, 0b00000000⟩
  | .aachUnallocated _ _ => ⟨6, 8, 0b00111111, 0b00000000⟩
  | .aachAssigned _ _ => ⟨6, 8, 0b00111111, 0b00000001⟩
  | .aachCommon _ _ => ⟨6, 8, 0b00111111, 0b00000010⟩
  | .aachReserved _ _ => ⟨6, 8, 0b00111111, 0b00000011⟩
  | .aachTraffic _ _ _ => ⟨6, 8, 0b00000000, 0b00000000⟩
  | .burstSb _ _ => ⟨1, 38, 0b11111111111111111111111111111111111111, 0b11000001100111001110100111000001100111⟩
  | .burstNdb _ _ => ⟨2, 22, 0b1111111111111111111111, 0b1101000011101001110100⟩
  | .burstNdbSf _ _ => ⟨2, 22, 0b1111111111111111111111, 0b0111101001000011011110⟩

/-- The word of the instruction matches its row, and its bits stand behind the format tag. -/
def Word.Statement (i : Instr) : Prop :=
  ∃ w rest, encode i = bvToBits (rowOf i).tag ++ natToBits (rowOf i).width w ++ rest ∧
    w &&& (rowOf i).mask = (rowOf i).value

theorem word_of_op {i : Instr} {code : BitVec 8} {rest : Bits} (he : encode i = op code ++ rest)
    (hr : rowOf i = ⟨0, 8, 0xff, code.toNat⟩) : Word.Statement i := by
  refine ⟨code.toNat, rest, ?_, ?_⟩
  · rw [he, hr]; rfl
  · rw [hr]
    simpa using Nat.and_two_pow_sub_one_of_lt_two_pow (n := 8) code.isLt

theorem word_of_pdu {i : Instr} {code : BitVec 4} {ch : SigChannel} {rest : Bits} (he : encode i = putPdu code ch rest)
    (ht : (rowOf i).tag = 3) (hw : (rowOf i).width = 4) (hm : code.toNat &&& (rowOf i).mask = (rowOf i).value) :
    Word.Statement i := by
  refine ⟨code.toNat, putSig ch ++ putVec rest, ?_, hm⟩
  rw [he, ht, hw, putPdu]
  simp only [List.append_assoc]
  rfl

theorem word_of_li {i : Instr} {code : BitVec 6} (he : encode i = putLi code) (ht : (rowOf i).tag = 4)
    (hw : (rowOf i).width = 6) (hm : code.toNat &&& (rowOf i).mask = (rowOf i).value) : Word.Statement i := by
  refine ⟨code.toNat, [], ?_, hm⟩
  rw [he, ht, hw, List.append_nil]
  rfl

theorem word_of_at {i : Instr} {code : BitVec 3} {p : Bits} {pos : Nat} (he : encode i = putAt code p pos)
    (hr : rowOf i = ⟨5, 3, 0b111, code.toNat⟩) : Word.Statement i := by
  refine ⟨code.toNat, putVec p ++ putNat pos, ?_, ?_⟩
  · rw [he, hr, putAt]
    simp only [List.append_assoc]
    rfl
  · rw [hr]
    simpa using Nat.and_two_pow_sub_one_of_lt_two_pow (n := 3) code.isLt

theorem natToBits_append (header : BitVec 2) (field1 : BitVec 6) :
    bvToBits header ++ bvToBits field1 = natToBits 8 (header ++ field1).toNat := by
  revert header field1
  decide

theorem word_of_aach {i : Instr} {frame18 : Bool} {header : BitVec 2} {field1 tail : BitVec 6}
    (he : encode i = putAach frame18 header field1 tail) (ht : (rowOf i).tag = 6) (hw : (rowOf i).width = 8)
    (hm : (header ++ field1).toNat &&& (rowOf i).mask = (rowOf i).value) : Word.Statement i := by
  refine ⟨(header ++ field1).toNat, putBool frame18 ++ bvToBits tail, ?_, hm⟩
  rw [he, ht, hw, putAach, ← natToBits_append]
  simp only [List.append_assoc]
  rfl

theorem Word.rxSymbol : ∀ b, Word.Statement (.rxSymbol b) := fun _ => word_of_op rfl rfl
theorem Word.syncMatch : ∀ w, Word.Statement (.syncMatch w) := fun _ => word_of_op rfl rfl
theorem Word.processBurst : ∀ w, Word.Statement (.processBurst w) := fun _ => word_of_op rfl rfl
theorem Word.bvSize : ∀ v, Word.Statement (.bvSize v) := fun _ => word_of_op rfl rfl
theorem Word.bvGetValue : ∀ v pos n, Word.Statement (.bvGetValue v pos n) := fun _ _ _ => word_of_op (by simp only [encode, List.append_assoc]; rfl) rfl
theorem Word.bvExtract : ∀ v pos n, Word.Statement (.bvExtract v pos n) := fun _ _ _ => word_of_op (by simp only [encode, List.append_assoc]; rfl) rfl
theorem Word.bvAppend : ∀ u v, Word.Statement (.bvAppend u v) := fun _ _ => word_of_op (by simp only [encode, List.append_assoc]; rfl) rfl
theorem Word.bvFromOffset : ∀ v offset len, Word.Statement (.bvFromOffset v offset len) := fun _ _ _ => word_of_op (by simp only [encode, List.append_assoc]; rfl) rfl
theorem Word.bvResize : ∀ v n, Word.Statement (.bvResize v n) := fun _ _ => word_of_op (by simp only [encode, List.append_assoc]; rfl) rfl
theorem Word.hamming : ∀ a b, Word.Statement (.hamming a b) := fun _ _ => word_of_op (by simp only [encode, List.append_assoc]; rfl) rfl
theorem Word.descramble : ∀ x key, Word.Statement (.descramble x key) := fun _ _ => word_of_op (by simp only [encode, List.append_assoc]; rfl) rfl
theorem Word.deinterleave : ∀ x size, Word.Statement (.deinterleave x size) := fun _ _ => word_of_op (by simp only [encode, List.append_assoc]; rfl) rfl
theorem Word.depuncture23 : ∀ x, Word.Statement (.depuncture23 x) := fun _ => word_of_op (by simp only [encode, List.append_assoc]; rfl) rfl
theorem Word.viterbiDecode : ∀ y, Word.Statement (.viterbiDecode y) := fun _ => word_of_op (by simp only [encode, List.append_assoc]; rfl) rfl
theorem Word.rmDecode : ∀ c, Word.Statement (.rmDecode c) := fun _ => word_of_op rfl rfl
theorem Word.crc16Check : ∀ b, Word.Statement (.crc16Check b) := fun _ => word_of_op (by simp only [encode, List.append_assoc]; rfl) rfl
theorem Word.timeInc : Word.Statement (.timeInc) := word_of_op (List.append_nil _).symm rfl
theorem Word.timeSet : ∀ tnCode fn mn, Word.Statement (.timeSet tnCode fn mn) := fun _ _ _ => word_of_op (by simp only [encode, List.append_assoc]; rfl) rfl
theorem Word.scrambleInit : ∀ mcc mnc cc, Word.Statement (.scrambleInit mcc mnc cc) := fun _ _ _ => word_of_op (by simp only [encode, List.append_assoc]; rfl) rfl
theorem Word.lmacBurst : ∀ w type, Word.Statement (.lmacBurst w type) := fun _ _ => word_of_op (by simp only [encode, List.append_assoc]; rfl) rfl
theorem Word.lmacSb : ∀ w, Word.Statement (.lmacSb w) := fun _ => word_of_op rfl rfl
theorem Word.lmacNdb : ∀ w, Word.Statement (.lmacNdb w) := fun _ => word_of_op rfl rfl
theorem Word.lmacNdbSf : ∀ w, Word.Statement (.lmacNdbSf w) := fun _ => word_of_op rfl rfl
theorem Word.fecDecodeBlock : ∀ x key size, Word.Statement (.fecDecodeBlock x key size) := fun _ _ _ => word_of_op (by simp only [encode, List.append_assoc]; rfl) rfl
theorem Word.aachDecodeBlock : ∀ x key, Word.Statement (.aachDecodeBlock x key) := fun _ _ => word_of_op (by simp only [encode, List.append_assoc]; rfl) rfl
theorem Word.umacDispatch : ∀ blk ch, Word.Statement (.umacDispatch blk ch) := fun _ _ => word_of_op (by simp only [encode, List.append_assoc]; rfl) rfl
theorem Word.dissectAach : ∀ a, Word.Statement (.dissectAach a) := fun _ => word_of_op rfl rfl
theorem Word.dissectBsch : ∀ b, Word.Statement (.dissectBsch b) := fun _ => word_of_op rfl rfl
theorem Word.dissectSysinfo : ∀ p ch, Word.Statement (.dissectSysinfo p ch) := fun _ _ => word_of_op (by simp only [encode, List.append_assoc]; rfl) rfl
theorem Word.decodeLength : ∀ li, Word.Statement (.decodeLength li) := fun _ => word_of_op rfl rfl
theorem Word.dissectMacResource : ∀ p ch, Word.Statement (.dissectMacResource p ch) := fun _ _ => word_of_op (by simp only [encode, List.append_assoc]; rfl) rfl
theorem Word.stripFillBits : ∀ p, Word.Statement (.stripFillBits p) := fun _ => word_of_op rfl rfl
theorem Word.parseAddress : ∀ p pos addrType, Word.Statement (.parseAddress p pos addrType) := fun _ _ _ => word_of_op (by simp only [encode, List.append_assoc]; rfl) rfl
theorem Word.parseChanAlloc : ∀ p pos, Word.Statement (.parseChanAlloc p pos) := fun _ _ => word_of_op (by simp only [encode, List.append_assoc]; rfl) rfl
theorem Word.dissectMacFrag : ∀ p ch, Word.Statement (.dissectMacFrag p ch) := fun _ _ => word_of_op (by simp only [encode, List.append_assoc]; rfl) rfl
theorem Word.dissectMacEnd : ∀ p ch, Word.Statement (.dissectMacEnd p ch) := fun _ _ => word_of_op (by simp only [encode, List.append_assoc]; rfl) rfl
theorem Word.dissectMacDBlck : ∀ p, Word.Statement (.dissectMacDBlck p) := fun _ => word_of_op rfl rfl
theorem Word.dissectAccessDefine : ∀ p ch, Word.Statement (.dissectAccessDefine p ch) := fun _ _ => word_of_op (by simp only [encode, List.append_assoc]; rfl) rfl
theorem Word.dissociationLoop : ∀ blk ch, Word.Statement (.dissociationLoop blk ch) := fun _ _ => word_of_op (by simp only [encode, List.append_assoc]; rfl) rfl
theorem Word.emitTchS : ∀ x, Word.Statement (.emitTchS x) := fun _ => word_of_op rfl rfl
theorem Word.ignoreReserved : ∀ p ch why, Word.Statement (.ignoreReserved p ch why) := fun _ _ _ => word_of_op (by simp only [encode, List.append_assoc]; rfl) rfl
theorem Word.fragStart : ∀ a t, Word.Statement (.fragStart a t) := fun _ _ => word_of_op (by simp only [encode, List.append_assoc]; rfl) rfl
theorem Word.fragAppend : ∀ v a, Word.Statement (.fragAppend v a) := fun _ _ => word_of_op (by simp only [encode, List.append_assoc]; rfl) rfl
theorem Word.fragGetSdu : ∀ a, Word.Statement (.fragGetSdu a) := fun _ => word_of_op rfl rfl
theorem Word.fragStop : Word.Statement (.fragStop) := word_of_op (List.append_nil _).symm rfl
theorem Word.inputUnpack : ∀ byte, Word.Statement (.inputUnpack byte) := fun _ => word_of_op rfl rfl
theorem Word.emit : ∀ ch sdu, Word.Statement (.emit ch sdu) := fun _ _ => word_of_op (by simp only [encode, List.append_assoc]; rfl) rfl
theorem Word.stop : Word.Statement (.stop) := word_of_op (List.append_nil _).symm rfl
theorem Word.ioError : Word.Statement (.ioError) := word_of_op (List.append_nil _).symm rfl
theorem Word.reset : Word.Statement (.reset) := word_of_op (List.append_nil _).symm rfl
theorem Word.macResource : ∀ lo rest ch, Word.Statement (.macResource lo rest ch) := fun lo _ _ => word_of_pdu rfl rfl rfl (by simp only [rowOf]; revert lo; decide)
theorem Word.macFrag : ∀ lo rest ch, Word.Statement (.macFrag lo rest ch) := fun lo _ _ => word_of_pdu rfl rfl rfl (by simp only [rowOf]; revert lo; decide)
theorem Word.macEnd : ∀ lo rest ch, Word.Statement (.macEnd lo rest ch) := fun lo _ _ => word_of_pdu rfl rfl rfl (by simp only [rowOf]; revert lo; decide)
theorem Word.sysinfo : ∀ rest ch, Word.Statement (.sysinfo rest ch) := fun _ _ => word_of_pdu rfl rfl rfl (by simp only [rowOf]; decide)
theorem Word.accessDefine : ∀ rest ch, Word.Statement (.accessDefine rest ch) := fun _ _ => word_of_pdu rfl rfl rfl (by simp only [rowOf]; decide)
theorem Word.reserved10x : ∀ lo rest ch, Word.Statement (.reserved10x lo rest ch) := fun lo _ _ => word_of_pdu rfl rfl rfl (by simp only [rowOf]; revert lo; decide)
theorem Word.macDBlck : ∀ lo rest, Word.Statement (.macDBlck lo rest) := fun lo _ => word_of_pdu rfl rfl rfl (by simp only [rowOf]; revert lo; decide)
theorem Word.reserved11 : ∀ lo rest ch, Word.Statement (.reserved11 lo rest ch) := fun lo _ _ => word_of_pdu rfl rfl rfl (by simp only [rowOf]; revert lo; decide)
theorem Word.liReserved0 : Word.Statement (.liReserved0) := word_of_li rfl rfl rfl (by simp only [rowOf]; decide)
theorem Word.liOctets1 : Word.Statement (.liOctets1) := word_of_li rfl rfl rfl (by simp only [rowOf]; decide)
theorem Word.liOctets2to3 : ∀ lo, Word.Statement (.liOctets2to3 lo) := fun lo => word_of_li rfl rfl rfl (by simp only [rowOf]; revert lo; decide)
theorem Word.liOctets4to7 : ∀ lo, Word.Statement (.liOctets4to7 lo) := fun lo => word_of_li rfl rfl rfl (by simp only [rowOf]; revert lo; decide)
theorem Word.liOctets8to15 : ∀ lo, Word.Statement (.liOctets8to15 lo) := fun lo => word_of_li rfl rfl rfl (by simp only [rowOf]; revert lo; decide)
theorem Word.liOctets16to17 : ∀ lo, Word.Statement (.liOctets16to17 lo) := fun lo => word_of_li rfl rfl rfl (by simp only [rowOf]; revert lo; decide)
theorem Word.liOctets18 : Word.Statement (.liOctets18) := word_of_li rfl rfl rfl (by simp only [rowOf]; decide)
theorem Word.liOctets19 : Word.Statement (.liOctets19) := word_of_li rfl rfl rfl (by simp only [rowOf]; decide)
theorem Word.liOctets20to23 : ∀ lo, Word.Statement (.liOctets20to23 lo) := fun lo => word_of_li rfl rfl rfl (by simp only [rowOf]; revert lo; decide)
theorem Word.liOctets24to31 : ∀ lo, Word.Statement (.liOctets24to31 lo) := fun lo => word_of_li rfl rfl rfl (by simp only [rowOf]; revert lo; decide)
theorem Word.liOctets32to47 : ∀ lo, Word.Statement (.liOctets32to47 lo) := fun lo => word_of_li rfl rfl rfl (by simp only [rowOf]; revert lo; decide)
theorem Word.liOctets48to55 : ∀ lo, Word.Statement (.liOctets48to55 lo) := fun lo => word_of_li rfl rfl rfl (by simp only [rowOf]; revert lo; decide)
theorem Word.liOctets56to57 : ∀ lo, Word.Statement (.liOctets56to57 lo) := fun lo => word_of_li rfl rfl rfl (by simp only [rowOf]; revert lo; decide)
theorem Word.liOctets58 : Word.Statement (.liOctets58) := word_of_li rfl rfl rfl (by simp only [rowOf]; decide)
theorem Word.liReserved59 : Word.Statement (.liReserved59) := word_of_li rfl rfl rfl (by simp only [rowOf]; decide)
theorem Word.liReserved60to61 : ∀ lo, Word.Statement (.liReserved60to61 lo) := fun lo => word_of_li rfl rfl rfl (by simp only [rowOf]; revert lo; decide)
theorem Word.liSecondHalfStolen : Word.Statement (.liSecondHalfStolen) := word_of_li rfl rfl rfl (by simp only [rowOf]; decide)
theorem Word.liStartFragmenting : Word.Statement (.liStartFragmenting) := word_of_li rfl rfl rfl (by simp only [rowOf]; decide)
theorem Word.atNull : ∀ p, Word.Statement (.atNull p) := fun p => ⟨0, putVec p, by simp only [encode, List.append_assoc]; rfl, Nat.zero_and _⟩
theorem Word.atSsi : ∀ p pos, Word.Statement (.atSsi p pos) := fun _ _ => word_of_at rfl rfl
theorem Word.atEventLabel : ∀ p pos, Word.Statement (.atEventLabel p pos) := fun _ _ => word_of_at rfl rfl
theorem Word.atUssi : ∀ p pos, Word.Statement (.atUssi p pos) := fun _ _ => word_of_at rfl rfl
theorem Word.atSmi : ∀ p pos, Word.Statement (.atSmi p pos) := fun _ _ => word_of_at rfl rfl
theorem Word.atSsiEventLabel : ∀ p pos, Word.Statement (.atSsiEventLabel p pos) := fun _ _ => word_of_at rfl rfl
theorem Word.atSsiUsageMarker : ∀ p pos, Word.Statement (.atSsiUsageMarker p pos) := fun _ _ => word_of_at rfl rfl
theorem Word.atSmiEventLabel : ∀ p pos, Word.Statement (.atSmiEventLabel p pos) := fun _ _ => word_of_at rfl rfl
theorem Word.aachFrame18 : ∀ header field1 tail, Word.Statement (.aachFrame18 header field1 tail) := fun _ _ _ => word_of_aach rfl rfl rfl (Nat.and_zero _)
theorem Word.aachHeader00 : ∀ field1 tail, Word.Statement (.aachHeader00 field1 tail) := fun field1 _ => word_of_aach rfl rfl rfl (by simp only [rowOf]; revert field1; decide)
theorem Word.aachUnallocated : ∀ header tail, Word.Statement (.aachUnallocated header tail) := fun header _ => word_of_aach rfl rfl rfl (by simp only [rowOf]; revert header; decide)
theorem Word.aachAssigned : ∀ header tail, Word.Statement (.aachAssigned header tail) := fun header _ => word_of_aach rfl rfl rfl (by simp only [rowOf]; revert header; decide)
theorem Word.aachCommon : ∀ header tail, Word.Statement (.aachCommon header tail) := fun header _ => word_of_aach rfl rfl rfl (by simp only [rowOf]; revert header; decide)
theorem Word.aachReserved : ∀ header tail, Word.Statement (.aachReserved header tail) := fun header _ => word_of_aach rfl rfl rfl (by simp only [rowOf]; revert header; decide)
theorem Word.aachTraffic : ∀ header field1 tail, Word.Statement (.aachTraffic header field1 tail) := fun _ _ _ => word_of_aach rfl rfl rfl (Nat.and_zero _)
theorem Word.burstSb : ∀ head tail, Word.Statement (.burstSb head tail) := fun head tail => ⟨(rowOf (.burstSb head tail)).value, head ++ tail, by simp only [encode, List.append_assoc]; rfl, by simp only [rowOf]; decide⟩
theorem Word.burstNdb : ∀ head tail, Word.Statement (.burstNdb head tail) := fun head tail => ⟨(rowOf (.burstNdb head tail)).value, head ++ tail, by simp only [encode, List.append_assoc]; rfl, by simp only [rowOf]; decide⟩
theorem Word.burstNdbSf : ∀ head tail, Word.Statement (.burstNdbSf head tail) := fun head tail => ⟨(rowOf (.burstNdbSf head tail)).value, head ++ tail, by simp only [encode, List.append_assoc]; rfl, by simp only [rowOf]; decide⟩

end Sys2Proof.Laws
end

