-- ==== Sys2Proof/Laws/Step.lean ====
section
/-! SUPPORT. What one step can do: each pending input, and the step it gives. -/

namespace Sys2Proof.Machine

/-- An operation at the port, decoded and run (log entries 1, 7). -/
theorem step_operation {s : State} {word : Bits} {rest : List Bits} {i : Instr} (hops : s.ops = word :: rest)
    (hi : decode word = .ok i) :
    step s = if s.halted && !runsHalted i then .next (s.setOps rest) else exec i (s.setOps rest) := by
  simp only [step, pending, hops, runWord, hi]
  rfl

/-- With nothing at the port, the step is that of the hardware's own inputs. -/
theorem step_input {s : State} (hops : s.ops = []) :
    step s = match pendingInput s with
      | .operation word rest => runWord word (s.setOps rest)
      | .reset => exec .reset s
      | .stop => exec .stop (takeStop s)
      | .symbol b env => exec (.rxSymbol b) (s.setEnv env)
      | .ioError => exec .ioError (takeIoError s)
      | .idle => .next s := by
  cases h : pendingInput s <;> simp only [step, pending, hops, h]

/-- Whatever a step answers next: an operation of the port that decodes, one of the hardware's inputs, or nothing done. -/
theorem step_next {s t : State} (h : step s = .next t) :
    (∃ word rest i, s.ops = word :: rest ∧ decode word = .ok i ∧
      ((s.halted = true ∧ runsHalted i = false ∧ t = s.setOps rest) ∨
        ((s.halted = false ∨ runsHalted i = true) ∧ exec i (s.setOps rest) = .next t))) ∨
    (s.ops = [] ∧ s.env.resetPending = true ∧ exec .reset s = .next t) ∨
    (s.ops = [] ∧ s.env.resetPending = false ∧ s.halted = false ∧ exec .stop (takeStop s) = .next t) ∨
    (s.ops = [] ∧ s.env.resetPending = false ∧ s.halted = false ∧
      ∃ b env, exec (.rxSymbol b) (s.setEnv env) = .next t) ∨
    (s.ops = [] ∧ s.env.resetPending = false ∧ s.halted = false ∧ exec .ioError (takeIoError s) = .next t) ∨
    (s.ops = [] ∧ s.env.resetPending = false ∧ t = s) := by
  cases hops : s.ops with
  | cons word rest =>
    cases hd : decode word with
    | error e => simp [step, pending, hops, runWord, hd] at h
    | ok i =>
      rw [step_operation hops hd] at h
      refine .inl ⟨word, rest, i, rfl, hd, ?_⟩
      split at h
      · rename_i hh
        simp only [Bool.and_eq_true, Bool.not_eq_true'] at hh
        cases h
        exact .inl ⟨hh.1, hh.2, rfl⟩
      · rename_i hh
        simp only [Bool.and_eq_true, Bool.not_eq_true', not_and, Bool.not_eq_false] at hh
        refine .inr ⟨?_, h⟩
        cases hb : s.halted
        · exact .inl rfl
        · exact .inr (hh hb)
  | nil =>
    right
    rw [step_input hops] at h
    unfold pendingInput at h
    cases hr : s.env.resetPending
    · simp only [hr, Bool.false_eq_true, if_false] at h
      cases hh : s.halted
      · simp only [hh, Bool.false_eq_true, if_false] at h
        cases hp : s.env.stopPending
        · simp only [hp, Bool.false_eq_true, if_false] at h
          cases hn : nextSymbol s.packMode s.env with
          | some x =>
            simp only [hn] at h
            exact .inr (.inr (.inl ⟨rfl, rfl, rfl, x.1, x.2, h⟩))
          | none =>
            cases hi : s.env.ioErrorPending
            · simp only [hn, hi, Bool.false_eq_true, if_false] at h
              cases h
              exact .inr (.inr (.inr (.inr ⟨rfl, rfl, rfl⟩)))
            · simp only [hn, hi, if_true] at h
              exact .inr (.inr (.inr (.inl ⟨rfl, rfl, rfl, h⟩)))
        · simp only [hp, if_true] at h
          exact .inr (.inl ⟨rfl, rfl, rfl, h⟩)
      · simp only [hh, if_true] at h
        cases h
        exact .inr (.inr (.inr (.inr ⟨rfl, rfl, rfl⟩)))
    · simp only [hr, if_true] at h
      exact .inl ⟨rfl, rfl, h⟩

end Sys2Proof.Machine
end

