-- ==== Sys2Proof/Laws/Sync.lean ====
section
/-! SUPPORT. What the burst synchronizer does, case by case: a window that fills, a match, a grace window, a window that slides, a tick of the counter. -/

namespace Sys2Proof.Machine

/-- A counter wide enough for the machine takes the reload value as it is (10 R21, 43 R222). -/
theorem counterLoad_reload {p : Params} (h : p.wf = true) : counterLoad p syncReload = 25500 := by
  simp only [Params.wf, decide_eq_true_eq] at h
  exact Nat.mod_eq_of_lt h

/-- No burst writes the synchronizer (10 R20 to R23). -/
theorem processBurst_sync (w : Bits) (s : State) : (processBurst w s).sync = s.sync := (macStep_processBurst w s).outside.sync

theorem rxSymbol_partial {b : Bool} {s : State} (h : s.sync.buffer.length < 509) :
    rxSymbol b s = (false, if s.params.syncDecOnPartial then counterTick (setBuffer s (s.sync.buffer ++ [b]))
      else setBuffer s (s.sync.buffer ++ [b])) := by
  have : (setBuffer s (append s.sync.buffer [b])).sync.buffer.length < burstLen := by
    simp [setBuffer, append, burstLen]; omega
  simp only [rxSymbol, if_pos this]
  rfl

theorem rxSymbol_full {b : Bool} {s : State} (h : s.sync.buffer.length = 509) :
    rxSymbol b s = rxFull (setBuffer s (s.sync.buffer ++ [b])) := by
  have : ¬ (setBuffer s (append s.sync.buffer [b])).sync.buffer.length < burstLen := by
    simp [setBuffer, append, h, burstLen]
  simp only [rxSymbol, if_neg this]
  rfl

/-- The window is handed on: time advances, the burst is processed, the buffer is cleared (43 R220). -/
def handWindowOn (s : State) : State := setBuffer (processBurst s.sync.buffer (timeInc s)) []

theorem rxFull_match {s : State} (h : windowMatches s.params s.sync.buffer = true) :
    rxFull s = (true, counterTick (handWindowOn (setSynchronized s))) := by
  simp only [rxFull, syncMatch, if_pos h, Bool.true_or, handWindowOn, if_true]

theorem rxFull_grace {s : State} (h : windowMatches s.params s.sync.buffer = false) (hg : graceDue s = true) :
    rxFull s = (false, counterTick (handWindowOn s)) := by
  simp only [rxFull, syncMatch, h, Bool.false_eq_true, if_false, hg, Bool.false_or, if_true, handWindowOn]

theorem rxFull_slide {s : State} (h : windowMatches s.params s.sync.buffer = false) (hg : graceDue s = false) :
    rxFull s = (false, counterTick (setBuffer s (s.sync.buffer.slice 1 510))) := by
  simp only [rxFull, syncMatch, h, Bool.false_eq_true, if_false, hg, Bool.false_or]

theorem handWindowOn_sync (s : State) : (handWindowOn s).sync = { s.sync with buffer := [] } := by
  unfold handWindowOn setBuffer
  rw [processBurst_sync]
  rfl

/-- A tick looks at nothing but the synchronizer: what the last operation returned does not matter. -/
theorem counterTick_returns (s : State) (r : Result) : counterTick (s.returns r) = (counterTick s).returns r := by
  obtain ⟨⟨sy, n, v, l⟩, _⟩ := s
  rcases n with _ | _ | n <;> cases l <;> rfl

/-- What a tick leaves in the synchronizer (43 R224). -/
theorem counterTick_sync (s : State) :
    (counterTick s).sync =
      if s.sync.bitCounter = 0 then s.sync
      else if s.sync.bitCounter = 1 then ⟨false, 0, s.sync.buffer, true⟩
      else { s.sync with bitCounter := s.sync.bitCounter - 1 } := by
  obtain ⟨⟨sy, n, v, l⟩, _⟩ := s
  rcases n with _ | _ | n <;> cases l <;> rfl

end Sys2Proof.Machine
end

