-- ==== Sys2Proof/Laws/UnitFrame.lean ====
section
/-! SUPPORT. What the dissection of a block leaves alone, said once: the time and the cell's identity, which a BSCH alone writes, and the logical channel, which a hand-over alone writes. -/

namespace Sys2Proof.Machine

/-- What no unit of the dissociation loop writes (45 R300; 44 R247). -/
structure UnitFrame (s t : State) : Prop where
  time : t.time = s.time
  mcc : t.cell.mcc = s.cell.mcc
  mnc : t.cell.mnc = s.cell.mnc
  colourCode : t.cell.colourCode = s.cell.colourCode
  scramblingCode : t.cell.scramblingCode = s.cell.scramblingCode
  logicalChannel : t.mac.logicalChannel = s.mac.logicalChannel

theorem UnitFrame.refl (s : State) : UnitFrame s s := ⟨rfl, rfl, rfl, rfl, rfl, rfl⟩

theorem UnitFrame.trans {s t u : State} (h : UnitFrame s t) (h' : UnitFrame t u) : UnitFrame s u :=
  ⟨h'.1.trans h.1, h'.2.trans h.2, h'.3.trans h.3, h'.4.trans h.4, h'.5.trans h.5, h'.6.trans h.6⟩

/-- A state with the same time, cell and logical channel. -/
theorem UnitFrame.of_eq {s t : State} (ht : t.time = s.time) (hc : t.cell = s.cell)
    (hm : t.mac.logicalChannel = s.mac.logicalChannel) : UnitFrame s t := ⟨ht, by rw [hc], by rw [hc], by rw [hc], by rw [hc], hm⟩

/-- The defragmenter writes its own slot and the log alone (46 R361 to R364). -/
theorem fragAppend_keeps (v : Bits) (a : MacAddress) (s : State) :
    (fragAppend v a s).time = s.time ∧ (fragAppend v a s).cell = s.cell ∧ (fragAppend v a s).mac = s.mac := by
  unfold fragAppend fragStop; repeat' split
  all_goals exact ⟨rfl, rfl, rfl⟩

theorem fragStart_keeps (a : MacAddress) (t : TetraTime) (s : State) :
    (fragStart a t s).time = s.time ∧ (fragStart a t s).cell = s.cell ∧ (fragStart a t s).mac = s.mac := by
  unfold fragStart; simp only; split <;> exact ⟨rfl, rfl, rfl⟩

theorem commitAddress_keeps (a : MacAddress) (enc : BitVec 2) (addrType : Nat) (s : State) :
    (commitAddress a enc addrType s).time = s.time ∧ (commitAddress a enc addrType s).cell = s.cell ∧
      (commitAddress a enc addrType s).mac = s.mac := by
  simp only [commitAddress]; split <;> exact ⟨rfl, rfl, rfl⟩

theorem commitLength_frame (p : Bits) (ch : SigChannel) (li : BitVec 6) (pos : Nat) (s : State) :
    UnitFrame s (commitLength p ch li pos s).2 := by
  unfold commitLength
  split
  · obtain ⟨h1, h2, h3⟩ := fragStart_keeps s.addr s.time s
    obtain ⟨k1, k2, k3⟩ := fragAppend_keeps (extract p pos (p.length - pos)) s.addr (fragStart s.addr s.time s)
    exact .of_eq (k1.trans h1) (k2.trans h2) (by rw [k3, h3])
  · split
    · exact .of_eq rfl rfl rfl
    · simp only
      split <;> exact .of_eq (by simp [setStolen]) (by simp [setStolen]) (by simp [setStolen])

theorem commitMacEnd_frame (p : Bits) (ch : SigChannel) (pos : Nat) (s : State) : UnitFrame s (commitMacEnd p ch pos s) := by
  obtain ⟨h1, h2, h3⟩ := fragAppend_keeps (extract p pos (p.length - pos)) s.addr s
  exact .of_eq (by simp [commitMacEnd, fragStop, State.setMarkerEncryption, h1]) (by simp [commitMacEnd, fragStop, State.setMarkerEncryption, h2])
    (by simp [commitMacEnd, fragStop, State.setMarkerEncryption, h3])

/-- No MAC-RESOURCE writes the time, the cell or the logical channel (45 R286). -/
theorem dissectMacResource_frame {p : Bits} {ch : SigChannel} {s t : State} {r : UnitResult}
    (h : dissectMacResource p ch s = .ok (r, t)) : UnitFrame s t := by
  unfold dissectMacResource at h
  simp only [bind, Except.bind, pure, Except.pure] at h
  split at h
  · cases h
  · split at h
    · cases h; exact .refl s
    · rename_i p' enc li at' a pos _
      have h' := Except.ok.inj h
      rw [Prod.ext_iff] at h'
      simp only at h'
      obtain ⟨h1, h2, h3⟩ := commitAddress_keeps a enc at' s
      rw [← h'.2]
      exact UnitFrame.trans (.of_eq h1 h2 (by rw [h3])) (commitLength_frame p' ch li pos _)

/-- A SYSINFO writes the frequency alone (45 R284). -/
theorem dissectSysinfo_frame {p : Bits} {ch : SigChannel} {s t : State} {r : UnitResult}
    (h : dissectSysinfo p ch s = .ok (r, t)) : UnitFrame s t := by
  unfold dissectSysinfo at h
  simp only [bind, Except.bind, pure, Except.pure] at h
  repeat' split at h
  all_goals first
    | cases h; done
    | (cases h; exact .of_eq rfl rfl rfl)
    | (cases h; constructor <;> simp)

/-- No dissection unit writes the time, the cell's identity or the logical channel (45 R300). -/
theorem dissectOne_frame {p : Bits} {ch : SigChannel} {s t : State} {r : UnitResult}
    (h : dissectOne p ch s = .ok (r, t)) : UnitFrame s t := by
  unfold dissectOne dissectMacFrag dissectMacEnd dissectMacDBlck dissectAccessDefine ignoreReserved at h
  simp only [bind, Except.bind, pure, Except.pure] at h
  repeat' split at h
  all_goals first
    | cases h; done
    | exact dissectMacResource_frame h
    | exact dissectSysinfo_frame h
    | (cases h; exact .of_eq rfl rfl rfl)
    | (cases h; exact commitMacEnd_frame _ _ _ _)
    | (cases h; exact .of_eq (fragAppend_keeps _ _ _).1 (fragAppend_keeps _ _ _).2.1 (by rw [(fragAppend_keeps _ _ _).2.2]))
    | (cases h; exact .of_eq (by simp) (by simp) (by simp))

theorem dissociate_frame (ch : SigChannel) (budget : Nat) : ∀ (p : Bits) (s : State), UnitFrame s (dissociate ch budget p s) := by
  induction budget with
  | zero =>
    intro p s
    unfold dissociate
    split
    · exact .of_eq rfl rfl rfl
    · rename_i r s' h
      split
      · exact dissectOne_frame h
      · exact (dissectOne_frame h).trans (.of_eq rfl rfl rfl)
  | succ budget ih =>
    intro p s
    unfold dissociate
    split
    · exact .of_eq rfl rfl rfl
    · rename_i r s' h
      split
      · exact dissectOne_frame h
      · exact (dissectOne_frame h).trans ((UnitFrame.of_eq rfl rfl rfl : UnitFrame s' (countRestart s')).trans (ih _ _))

/-- The dissociation loop leaves the time, the cell's identity and the logical channel (45 R294, R300). -/
theorem dissociationLoop_frame (blk : Bits) (ch : SigChannel) (s : State) : UnitFrame s (dissociationLoop blk ch s) :=
  dissociate_frame ch _ blk s

/-- An AACH writes the usage and its marker alone (45 R282). -/
theorem dissectAach_frame {a : Bits} {s t : State} (h : dissectAach a s = .ok t) :
    t.time = s.time ∧ t.cell = s.cell ∧ t.mac.logicalChannel = s.mac.logicalChannel ∧
      t.mac.secondSlotStolen = s.mac.secondSlotStolen := by
  unfold dissectAach at h
  simp only [bind, Except.bind, pure, Except.pure] at h
  repeat' split at h
  all_goals first | cases h; done | skip
  cases h
  exact ⟨by simp [setUsage], by simp [setUsage], by simp [setUsage], by simp [setUsage]⟩

/-- No dissection writes the logical channel (44 R247). -/
theorem umacDispatch_logicalChannel (blk : Bits) (ch : LogicalChannel) (s : State) :
    (umacDispatch blk ch s).mac.logicalChannel = s.mac.logicalChannel := by
  unfold umacDispatch
  split
  · rcases caught_cases s (dissectAach blk s) with ⟨s', h, hc⟩ | ⟨e, -, hc⟩
    · rw [hc]; exact (dissectAach_frame h).2.2.1
    · rw [hc]; rfl
  · rcases caught_cases s (dissectBsch blk s) with ⟨s', h, hc⟩ | ⟨e, -, hc⟩
    · rw [hc]
      unfold dissectBsch commitBsch timeSet at h
      simp only [bind, Except.bind, pure, Except.pure] at h
      repeat' split at h
      all_goals first
        | cases h; done
        | (cases h; simp)
    · rw [hc]; rfl
  · simp [emitTchS]
  all_goals first
    | exact (dissociationLoop_frame _ _ _).logicalChannel
    | rfl

end Sys2Proof.Machine
end

