-- ==== Sys2Proof/Tests/Slice0.lean ====
section
/-! SUPPORT. The model's own tests: the well-formedness checks refuse, the decoder reads words written out from the encodings, single steps give what the spec's vectors say (95_test_vectors.md), and every statement with premises has a state that meets them. -/

set_option Elab.async false -- many small theorems: elaborated one after another, which keeps the threads few

namespace Sys2Proof.Tests

open Machine

/-! ### Every check of WellFormed refuses an ill-formed operation -/

theorem test_wf_refuses_long_vector (v : Bits) (h : v.length = 65536) : (Instr.emitTchS v).wf = false := by
  simp [Instr.wf, vecOk, natOk, h]
theorem test_wf_refuses_long_value (v : Bits) (h : v.length = 65536) : (Instr.bvSize (.value v)).wf = false := by
  simp [Instr.wf, VecOperand.wf, vecOk, natOk, h]
theorem test_wf_refuses_large_number : (Instr.bvResize (.value []) 65536).wf = false := by decide
theorem test_wf_refuses_large_integer : (Instr.bvExtract (.value []) 32768 0).wf = false := by decide
theorem test_wf_refuses_low_integer : (Instr.bvFromOffset (.value []) 0 (some (-32769))).wf = false := by decide
theorem test_wf_refuses_wide_read : (Instr.bvGetValue (.value []) 0 65).wf = false := by decide
theorem test_wf_refuses_unequal_hamming : (Instr.hamming (.value [true]) (.value [])).wf = false := by decide
theorem test_wf_refuses_short_window : (Instr.syncMatch (List.replicate 509 false)).wf = false := by decide +kernel
theorem test_wf_refuses_deinterleave_size : (Instr.deinterleave (List.replicate 216 false) .k120).wf = false := by decide +kernel
theorem test_wf_refuses_depuncture_size : (Instr.depuncture23 (List.replicate 119 false)).wf = false := by decide +kernel
theorem test_wf_refuses_viterbi_size : (Instr.viterbiDecode (List.replicate 319 .erased)).wf = false := by decide +kernel
theorem test_wf_refuses_reed_muller_size : (Instr.rmDecode (List.replicate 29 false)).wf = false := by decide +kernel
theorem test_wf_refuses_aach_size : (Instr.aachDecodeBlock (List.replicate 31 false) 0).wf = false := by decide +kernel
theorem test_wf_refuses_fec_size : (Instr.fecDecodeBlock (List.replicate 120 false) 0 .k432).wf = false := by decide +kernel
theorem test_wf_refuses_short_crc : (Instr.crc16Check (List.replicate 15 false)).wf = false := by decide +kernel
theorem test_wf_refuses_null_address : (Instr.parseAddress [] 0 0).wf = false := by decide
theorem test_wf_refuses_time : (Instr.fragStart zeroAddress ⟨5, 1, 1⟩).wf = false := by decide
theorem test_wf_refuses_type_11_on_sch_f : (Instr.reserved11 0 [] .schF).wf = false := by decide
theorem test_wf_refuses_header_00 : (Instr.aachTraffic 0 10 0).wf = false := by decide
theorem test_wf_refuses_low_marker : (Instr.aachTraffic 2 3 0).wf = false := by decide
theorem test_wf_refuses_burst_head : (Instr.burstSb (List.replicate 213 false) (List.replicate 258 false)).wf = false := by decide +kernel
theorem test_wf_refuses_burst_tail : (Instr.burstNdb (List.replicate 244 false) (List.replicate 245 false)).wf = false := by decide +kernel

/-! ### Words of the port, written out: a format tag, the row's code from the opcode table, the operands (log entry 2) -/

/-- The word decodes to the operation. -/
def decodes (w : Bits) (i : Instr) : Bool :=
  match decode w with
  | .ok j => j == i
  | .error _ => false

/-- The word is refused for this reason. -/
def rejects (w : Bits) (e : DecodeError) : Bool :=
  match decode w with
  | .ok _ => false
  | .error e' => e' == e

/-- `n` zero bits. -/
def z (n : Nat) : Bits := List.replicate n false

/-- A vector field: 16 bits of length, then the bits `0101`. -/
def vec4 : Bits := natToBits 20 0b00000000000001000101

/-- Those bits. -/
def bits4 : Bits := [false, true, false, true]

/-- An address field by field: type 6, SSI 0xABCDEF, USSI 1, SMI 2, event label 3, usage marker 5, encryption mode 1. -/
def addressField : Bits :=
  natToBits 3 0b110 ++ natToBits 24 0xABCDEF ++ natToBits 24 1 ++ natToBits 24 2 ++ natToBits 18 0b0000000011_000101_01

/-- That address. -/
def anAddress : MacAddress := ⟨6, 0xABCDEF, 1, 2, 3, 5, 1⟩

theorem test_decode_synchronizer :
    decodes (natToBits 12 0b000_00000001_1) (.rxSymbol true) &&
    decodes (natToBits 12 0b000_00000010_1 ++ z 509) (.syncMatch (true :: z 509)) &&
    decodes (natToBits 12 0b000_00000011_1 ++ z 509) (.processBurst (true :: z 509)) := by decide +kernel

theorem test_decode_bit_vector :
    decodes (natToBits 13 0b000_00010000_00 ++ vec4) (.bvSize (.value bits4)) &&
    decodes (natToBits 36 0b000_00010001_01_0000000000000011_1000000) (.bvGetValue .syncBuffer 3 64) &&
    decodes (natToBits 45 0b000_00010010_10_1111111111111110_0000000000000111) (.bvExtract .fragBuffer (-2) 7) &&
    decodes (natToBits 15 0b000_00010011_10_01) (.bvAppend .fragBuffer .syncBuffer) &&
    decodes (natToBits 30 0b000_00010100_01_0000000000000101_0) (.bvFromOffset .syncBuffer 5 none) &&
    decodes (natToBits 46 0b000_00010100_01_0000000000000101_1_1111111111111111) (.bvFromOffset .syncBuffer 5 (some (-1))) &&
    decodes (natToBits 29 0b000_00010101_10_0000000000001001) (.bvResize .fragBuffer 9) &&
    decodes (natToBits 13 0b000_00010110_00 ++ vec4 ++ natToBits 2 0b01) (.hamming (.value bits4) .syncBuffer) := by decide +kernel

theorem test_decode_block_codes :
    decodes (natToBits 11 0b000_00100000 ++ vec4 ++ natToBits 32 0x34000117) (.descramble bits4 0x34000117) &&
    decodes (natToBits 14 0b000_00100001_00_1 ++ z 119) (.deinterleave (true :: z 119) .k120) &&
    decodes (natToBits 14 0b000_00100010_01_1 ++ z 215) (.depuncture23 (true :: z 215)) &&
    decodes (natToBits 17 0b000_00100100_00_01_10 ++ z 636) (.viterbiDecode (.one :: .erased :: List.replicate 318 .zero)) &&
    decodes (natToBits 12 0b000_00100110_1 ++ z 29) (.rmDecode (true :: z 29)) &&
    decodes (natToBits 28 0b000_00100111_0000000000000001_1 ++ z 16) (.crc16Check (true :: z 16)) := by decide +kernel

theorem test_decode_cell_and_time :
    decodes (natToBits 11 0b000_00110000) .timeInc &&
    decodes (natToBits 24 0b000_00110001_10_10010_111100) (.timeSet 2 18 60) &&
    decodes (natToBits 41 0b000_00110010_0011010000_00000000000001_000101) (.scrambleInit 208 1 5) := by decide +kernel

theorem test_decode_lower_mac :
    decodes (natToBits 12 0b000_01000000_1 ++ z 509 ++ natToBits 2 0b10) (.lmacBurst (true :: z 509) .ndbSf) &&
    decodes (natToBits 12 0b000_01000001_1 ++ z 509) (.lmacSb (true :: z 509)) &&
    decodes (natToBits 12 0b000_01000010_1 ++ z 509) (.lmacNdb (true :: z 509)) &&
    decodes (natToBits 12 0b000_01000011_1 ++ z 509) (.lmacNdbSf (true :: z 509)) &&
    decodes (natToBits 14 0b000_01000100_10_1 ++ z 431 ++ natToBits 32 7) (.fecDecodeBlock (true :: z 431) 7 .k432) &&
    decodes (natToBits 12 0b000_01000101_1 ++ z 29 ++ natToBits 32 7) (.aachDecodeBlock (true :: z 29) 7) := by decide +kernel

theorem test_decode_upper_mac :
    decodes (natToBits 15 0b000_01010000_0100 ++ vec4) (.umacDispatch bits4 .schF) &&
    decodes (natToBits 11 0b000_01010001 ++ vec4) (.dissectAach bits4) &&
    decodes (natToBits 11 0b000_01010010 ++ vec4) (.dissectBsch bits4) &&
    decodes (natToBits 13 0b000_01010011_11 ++ vec4) (.dissectSysinfo bits4 .bnch) &&
    decodes (natToBits 17 0b000_01010100_010010) (.decodeLength 18) &&
    decodes (natToBits 13 0b000_01010101_01 ++ vec4) (.dissectMacResource bits4 .schHd) &&
    decodes (natToBits 11 0b000_01010110 ++ vec4) (.stripFillBits bits4) &&
    decodes (natToBits 11 0b000_01010111 ++ vec4 ++ natToBits 19 0b0000000000010000_101) (.parseAddress bits4 16 6) &&
    decodes (natToBits 11 0b000_01011000 ++ vec4 ++ natToBits 16 3) (.parseChanAlloc bits4 3) &&
    decodes (natToBits 13 0b000_01011001_10 ++ vec4) (.dissectMacFrag bits4 .stch) &&
    decodes (natToBits 13 0b000_01011010_10 ++ vec4) (.dissectMacEnd bits4 .stch) &&
    decodes (natToBits 11 0b000_01011011 ++ vec4) (.dissectMacDBlck bits4) &&
    decodes (natToBits 13 0b000_01011100_01 ++ vec4) (.dissectAccessDefine bits4 .schHd) &&
    decodes (natToBits 13 0b000_01011101_00 ++ vec4) (.dissociationLoop bits4 .schF) &&
    decodes (natToBits 11 0b000_01011110 ++ vec4) (.emitTchS bits4) &&
    decodes (natToBits 18 0b000_01011111_1_11_01_01 ++ vec4) (.ignoreReserved bits4 .schHd (.channel 3 .schHd)) &&
    decodes (natToBits 18 0b000_01011111_0_10_11_01 ++ vec4) (.ignoreReserved bits4 .schHd (.subtype 2 3)) := by decide +kernel

theorem test_decode_defragmenter :
    decodes (natToBits 11 0b000_01100000 ++ addressField ++ natToBits 13 0b10_00110_001000) (.fragStart anAddress ⟨3, 7, 9⟩) &&
    decodes (natToBits 11 0b000_01100001 ++ addressField ++ vec4) (.fragAppend bits4 anAddress) &&
    decodes (natToBits 11 0b000_01100010 ++ addressField) (.fragGetSdu anAddress) &&
    decodes (natToBits 11 0b000_01100011) .fragStop := by decide +kernel

theorem test_decode_interfaces :
    decodes (natToBits 19 0b000_01110000_00001011) (.inputUnpack 0x0B) &&
    decodes (natToBits 15 0b000_01110001_0111 ++ vec4) (.emit .tchS bits4) &&
    decodes (natToBits 11 0b000_01110010) .stop &&
    decodes (natToBits 11 0b000_01110011) .ioError &&
    decodes (natToBits 11 0b000_01110100) .reset := by decide +kernel

/-- The rows of 30 R101, on the channel of the two bits after the window. -/
theorem test_decode_pdu_types :
    decodes (natToBits 9 0b011_0010_01 ++ vec4) (.macResource 2 bits4 .schHd) &&
    decodes (natToBits 9 0b011_0101_00 ++ vec4) (.macFrag 1 bits4 .schF) &&
    decodes (natToBits 9 0b011_0110_10 ++ vec4) (.macEnd 0 bits4 .stch) &&
    decodes (natToBits 9 0b011_1000_11 ++ vec4) (.sysinfo bits4 .bnch) &&
    decodes (natToBits 9 0b011_1001_00 ++ vec4) (.accessDefine bits4 .schF) &&
    decodes (natToBits 9 0b011_1011_00 ++ vec4) (.reserved10x 1 bits4 .schF) &&
    decodes (natToBits 9 0b011_1110_00 ++ vec4) (.macDBlck 2 bits4) &&
    decodes (natToBits 9 0b011_1110_01 ++ vec4) (.reserved11 2 bits4 .schHd) := by decide +kernel

/-- The rows of 30 R102. -/
theorem test_decode_length_indications :
    [(0b000000, Instr.liReserved0), (0b000001, .liOctets1), (0b000011, .liOctets2to3 1), (0b000110, .liOctets4to7 2),
      (0b001101, .liOctets8to15 5), (0b010001, .liOctets16to17 1), (0b010010, .liOctets18), (0b010011, .liOctets19),
      (0b010111, .liOctets20to23 3), (0b011110, .liOctets24to31 6), (0b101001, .liOctets32to47 9), (0b110100, .liOctets48to55 4),
      (0b111001, .liOctets56to57 1), (0b111010, .liOctets58), (0b111011, .liReserved59), (0b111101, .liReserved60to61 1),
      (0b111110, .liSecondHalfStolen), (0b111111, .liStartFragmenting)].all
      fun p => decodes (natToBits 3 0b100 ++ natToBits 6 p.1) p.2 := by decide +kernel

/-- The rows of 30 R103. -/
theorem test_decode_address_types :
    decodes (natToBits 6 0b101_000 ++ vec4) (.atNull bits4) &&
    decodes (natToBits 6 0b101_001 ++ vec4 ++ natToBits 16 3) (.atSsi bits4 3) &&
    decodes (natToBits 6 0b101_010 ++ vec4 ++ natToBits 16 3) (.atEventLabel bits4 3) &&
    decodes (natToBits 6 0b101_011 ++ vec4 ++ natToBits 16 3) (.atUssi bits4 3) &&
    decodes (natToBits 6 0b101_100 ++ vec4 ++ natToBits 16 3) (.atSmi bits4 3) &&
    decodes (natToBits 6 0b101_101 ++ vec4 ++ natToBits 16 3) (.atSsiEventLabel bits4 3) &&
    decodes (natToBits 6 0b101_110 ++ vec4 ++ natToBits 16 3) (.atSsiUsageMarker bits4 3) &&
    decodes (natToBits 6 0b101_111 ++ vec4 ++ natToBits 16 3) (.atSmiEventLabel bits4 3) := by decide +kernel

/-- The rows of 30 R104: header, first field, the frame-18 bit, the six bits no rule reads. -/
theorem test_decode_aach_usages :
    decodes (natToBits 18 0b110_10_001010_1_000001) (.aachFrame18 2 10 1) &&
    decodes (natToBits 18 0b110_00_010100_0_000001) (.aachHeader00 20 1) &&
    decodes (natToBits 18 0b110_10_000000_0_000001) (.aachUnallocated 2 1) &&
    decodes (natToBits 18 0b110_10_000001_0_000001) (.aachAssigned 2 1) &&
    decodes (natToBits 18 0b110_10_000010_0_000001) (.aachCommon 2 1) &&
    decodes (natToBits 18 0b110_10_000011_0_000001) (.aachReserved 2 1) &&
    decodes (natToBits 18 0b110_10_001010_0_000001) (.aachTraffic 2 10 1) := by decide +kernel

/-- The rows of 30 R100, by the training sequences of 43 R221. -/
theorem test_decode_burst_classes :
    decodes (natToBits 41 0b001_11000001100111001110100111000001100111 ++ z 471 ++ [true])
      (.burstSb (z 214) (z 257 ++ [true])) &&
    decodes (natToBits 25 0b010_1101000011101001110100 ++ true :: z 487) (.burstNdb (true :: z 243) (z 244)) &&
    decodes (natToBits 25 0b010_0111101001000011011110 ++ z 487 ++ [true]) (.burstNdbSf (z 244) (z 243 ++ [true])) := by
  decide +kernel

theorem test_decode_rejects :
    rejects (natToBits 11 0b000_00110001) .tooShort && rejects (natToBits 11 0b111_00000000) .noSuchFormat &&
    rejects (natToBits 11 0b000_00000100) .noSuchRow && rejects (natToBits 13 0b000_00010000_11) .badOperand &&
    rejects (natToBits 12 0b000_00110000_1) .trailingBits &&
    rejects (natToBits 18 0b000_01010000_1111111) .badOperand := by decide +kernel

/-- The table's numbering: a one-byte word is an operation where it names one, else a selector row (log entry 3). -/
theorem test_decode_table_words :
    decodeTableWord 8 0x72 = some .stop ∧ decodeTableWord 8 0x3E = some .liSecondHalfStolen ∧
    decodeTableWord 8 0x80 = some (.aachUnallocated 2 0) := by decide +kernel

/-! ### Single steps: the spec's vectors (95_test_vectors.md; the id of each in its comment) -/

/-- The state after an operation. -/
def after (i : Instr) (s : State) : Option State :=
  match exec i s with
  | .next t => some t
  | _ => none

/-- What an operation returns from the reset state. -/
def returned (i : Instr) : Option Result := (after i State.reset).map fun t => t.result

/-- The first `n` bits of a hexadecimal literal of `d` digits (30 R115). -/
def hex (d n x : Nat) : Bits := natToBits n (x >>> (4 * d - n))

/-- The reset state at a time. -/
def at_ (tn fn mn : Nat) : State := State.reset.setTime ⟨tn, fn, mn⟩

/-- The emissions and the log after a handoff from a state. -/
def streams (blk : Bits) (ch : LogicalChannel) (s : State) : List Emission × List LogRecord :=
  ((handoff blk ch s).emissions, (handoff blk ch s).logs)

/-- V1.1 -/
theorem test_bv_size : returned (.bvSize (.value (natToBits 4 0b1011))) = some (.number 4) := by decide +kernel
/-- V1.3 -/
theorem test_bv_get_value : returned (.bvGetValue (.value (natToBits 7 0b0010110)) 2 3) = some (.number 5) := by decide +kernel
/-- V1.6 -/
theorem test_bv_get_value_out_of_range :
    returned (.bvGetValue (.value (natToBits 7 0b0010110)) 8 0) = some (.raised ⟨8, 0, 7⟩) := by decide +kernel
/-- V1.9 -/
theorem test_bv_extract_clamps :
    returned (.bvExtract (.value (natToBits 6 0b110010)) 4 10) = some (.bits (natToBits 2 0b10)) := by decide +kernel
/-- V1.10 -/
theorem test_bv_extract_negative : returned (.bvExtract (.value (natToBits 6 0b110010)) 3 (-2)) = some (.bits []) := by decide +kernel
/-- V1.13, on the stored fragment buffer -/
theorem test_bv_append_itself :
    (after (.bvAppend .fragBuffer .fragBuffer) (State.reset.setFrag { State.reset.frag with buffer := natToBits 2 0b10 })).map
      (fun t => t.frag.buffer) = some (natToBits 4 0b1010) := by decide +kernel
/-- V1.15 -/
theorem test_bv_from_offset :
    returned (.bvFromOffset (.value (natToBits 7 0b1100101)) 3 (some 2)) = some (.bits (natToBits 2 0b01)) := by decide +kernel
/-- V1.18 -/
theorem test_bv_resize_pads : returned (.bvResize (.value (natToBits 1 0b1)) 3) = some (.bits (natToBits 3 0b100)) := by decide +kernel
/-- V1.19 -/
theorem test_hamming :
    returned (.hamming (.value (natToBits 10 0b1011011100)) (.value (natToBits 10 0b1011011101))) = some (.number 1) := by
  decide +kernel
/-- V2.3 -/
theorem test_descramble :
    returned (.descramble (z 32) 0x34000117) = some (.bits (natToBits 32 0b00011010001010101100000111010111)) := by decide +kernel
/-- V2.8 -/
theorem test_scramble_init : returned (.scrambleInit 208 1 5) = some (.code 0x34000117) := by decide +kernel
/-- V3.1: the input's only one stands at position 11, which output 0 takes. -/
theorem test_deinterleave :
    returned (.deinterleave ((z 120).set 11 true) .k120) = some (.bits (true :: z 119)) := by decide +kernel
/-- V3.4 -/
theorem test_depuncture :
    (depuncture Params.default.punct (natToBits 6 0b110111)) =
      [.one, .one, .erased, .erased, .zero, .erased, .erased, .erased, .one, .one, .erased, .erased, .one, .erased, .erased, .erased] := by
  decide +kernel
/-- V4.1 -/
theorem test_conv_encode : convEncode (natToBits 4 0b1000) = natToBits 16 0b1111101101100101 := by decide +kernel
/-- V4.4: one error, corrected. -/
theorem test_viterbi_corrects :
    returned (.viterbiDecode (depuncture Params.default.punct (hex 30 120 0xDDB000000000000000000000000000))) =
      some (.bits (natToBits 4 0b1101 ++ z 76)) := by decide +kernel
/-- V5.4, V5.7 -/
theorem test_crc16 :
    returned (.crc16Check (hex 15 60 0x014902006800020 ++ natToBits 16 0xE503)) = some (.flag true) ∧
    returned (.crc16Check (hex 15 60 0x014902006800020 ++ natToBits 16 0x1AFC)) = some (.flag false) := by decide +kernel
/-- V6.1 -/
theorem test_time_wraps : (after .timeInc (at_ 4 18 60)).map (fun t => t.time) = some ⟨1, 1, 1⟩ := by decide +kernel
/-- V6.7 -/
theorem test_time_set_refuses :
    (after (.timeSet 3 18 61) (at_ 2 5 7)).map (fun t => (t.time, t.logs)) = some (⟨2, 5, 7⟩, [.timeInvalid 4 18 61]) := by
  decide +kernel
/-- V7.1, V7.2 -/
theorem test_sync_match :
    returned (.syncMatch (natToBits 12 0b000110101101 ++ z 488 ++ natToBits 10 0b1011011101)) = some (.flag true) ∧
    returned (.syncMatch (natToBits 12 0b000110101101 ++ z 488 ++ natToBits 10 0b1011011111)) = some (.flag false) := by
  decide +kernel
/-- V7.4 -/
theorem test_burst_rejected :
    (after (.processBurst (z 510)) State.reset).map (fun t => t.logs) = some [.burstReject 19 11 12] := by decide +kernel
/-- V7.7 -/
theorem test_sync_loss :
    (let t := counterTick (State.reset.setSync ⟨true, 1, [], false⟩); (t.sync, t.logs)) = (⟨false, 0, [], true⟩, [.syncLoss]) := by
  decide +kernel
/-- V7.9, the last symbol -/
theorem test_rx_symbol_matches :
    (after (.rxSymbol false) (State.reset.setSync { State.reset.sync with
      buffer := natToBits 12 0b000110101101 ++ z 488 ++ natToBits 9 0b101101110 })).map
      (fun t => (t.sync, t.time, t.logs, t.frameFound)) =
      some (⟨true, 25499, [], false⟩, ⟨2, 1, 1⟩, [.burstReject 19 11 12], true) := by decide +kernel
/-- Program E, its synchronization burst: BSCH, AACH and BKN2, all with the right key. -/
theorem test_program_e :
    (after (.processBurst (hex 128 510 0x1AD000000000000000000000EDE9816D28C6B831CBE4617D79CA6F0673A70671A2AC1D468AB077C2C70B36B1C0B36DA0E960E093089297A3DA9E02521EA38B70))
      (at_ 2 1 1)).map (fun t => (t.cell, t.time, t.mac.downlinkUsage, t.logs, t.emissions.map fun e => e.channel)) =
      some (⟨208, 1, 5, 0x34000117, 0⟩, ⟨1, 18, 1⟩, .commonControl, [.macSync .sb 5 1 18 1 208 1], [.bsch, .aach]) := by
  decide +kernel
/-- V9.1 -/
theorem test_aach_traffic :
    (after (.dissectAach (hex 4 14 0x8A1C)) (at_ 1 5 1)).map
      (fun t => (t.mac.downlinkUsage, t.mac.downlinkUsageMarker, t.emissions)) =
      some (.traffic, 10, [⟨.aach, hex 4 14 0x8A1C, zeroAddress, ⟨1, 5, 1⟩⟩]) := by decide +kernel
/-- V9.3, P9 -/
theorem test_aach_frame_18 :
    (after (.aachFrame18 2 10 0x1C) (at_ 1 18 1)).map (fun t => (t.mac.downlinkUsage, t.mac.downlinkUsageMarker)) =
      some (.commonControl, 0) := by decide +kernel
/-- V9.4, E1 -/
theorem test_bsch :
    (after (.dissectBsch (hex 15 60 0x014902006800020)) State.reset).map (fun t => (t.cell, t.time, t.emissions)) =
      some (⟨208, 1, 5, 0x34000117, 0⟩, ⟨1, 18, 1⟩, [⟨.bsch, hex 8 29 0x34000100, zeroAddress, ⟨1, 18, 1⟩⟩]) := by decide +kernel
/-- V9.5 -/
theorem test_bsch_short : streams (z 59) .bsch State.reset = ([], [.shortPdu .bsch 59]) := by decide +kernel
/-- V9.6 -/
theorem test_sysinfo :
    (after (.dissectSysinfo (hex 31 124 0x84D244000000000000003FFFFFFFFFF) .bnch) State.reset).map
      (fun t => (t.cell.downlinkFreqHz, t.emissions)) =
      some (430856250, [⟨.bnch, hex 11 42 0xFFFFFFFFFFC, zeroAddress, ⟨1, 1, 1⟩⟩]) := by decide +kernel
/-- V9.7 -/
theorem test_out_of_range :
    streams (natToBits 20 0b0000000_001010_001_0000) .schF State.reset = ([], [.outOfRange 16 24 20]) := by decide +kernel
/-- V9.8 -/
theorem test_reserved_length :
    (let t := handoff (hex 31 124 0x01D90000001FFFFFFFFFFFFFFFFFFFF) .schHd State.reset; (t.addr, t.emissions, t.logs)) =
      (⟨1, 0, 0, 0, 0, 0, 0⟩, [], [.reservedLength 59]) := by decide +kernel
/-- V9.9 -/
theorem test_fill_bits_stripped :
    streams (hex 31 124 0x2031123456158000000000000000000) .schHd State.reset =
      ([⟨.schHd, natToBits 5 0b10101, ⟨1, 0x123456, 0, 0, 0, 0, 0⟩, ⟨1, 1, 1⟩⟩], []) := by decide +kernel
/-- V9.10 -/
theorem test_second_slot_stolen :
    (after (.dissectMacResource (hex 31 124 0x01F1ABCDEF1FFFFFFFFFFFFFFFFFFFF) .schHd) State.reset).map
      (fun t => (t.mac.secondSlotStolen, t.emissions)) =
      some (true, [⟨.schHd, List.replicate 81 true, ⟨1, 0xABCDEF, 0, 0, 0, 0, 0⟩, ⟨1, 1, 1⟩⟩]) := by decide +kernel
/-- V9.11 -/
theorem test_mac_d_blck :
    (after (.dissectMacDBlck (hex 5 18 0xC4033 ++ List.replicate 250 true)) State.reset).map (fun t => (t.addr, t.emissions)) =
      some (⟨0, 0, 0, 0, 3, 0, 1⟩, [⟨.schF, List.replicate 250 true, ⟨0, 0, 0, 0, 3, 0, 1⟩, ⟨1, 1, 1⟩⟩]) := by decide +kernel
/-- V9.12 -/
theorem test_type_11_reserved : streams (natToBits 4 0b1100 ++ z 120) .schHd State.reset = ([], [.reservedPdu (.channel 3 .schHd)]) := by
  decide +kernel
/-- V9.14 -/
theorem test_type_10_reserved :
    streams (natToBits 4 0b1011 ++ z 120) .bnch State.reset = ([], [.reservedPdu (.subtype 2 3)]) := by decide +kernel
/-- V9.15 -/
theorem test_mac_end_length :
    streams (natToBits 11 0b01100000001 ++ List.replicate 113 true) .schHd State.reset = ([], [.endLength 1]) := by decide +kernel
/-- V9.16 -/
theorem test_parse_address :
    returned (.parseAddress (z 16 ++ natToBits 24 0xABCDEF ++ natToBits 6 0b000101) 16 6) =
      some (.address ⟨6, 0xABCDEF, 0, 0, 0, 5, 0⟩ 46) := by decide +kernel
/-- V9.17, V9.18: the shortest and the longest element. -/
theorem test_parse_chan_alloc :
    returned (.parseChanAlloc (natToBits 25 0b00_0000_01_0_0_000000000000_0_01) 0) = some (.position 25) ∧
    (after (.parseChanAlloc (z 22 ++ [true] ++ z 10 ++ z 4 ++ z 26 ++ natToBits 2 0b01 ++ z 15 ++ [true] ++ z 16 ++ [true] ++ z 17) 0)
      (at_ 1 18 1)).map (fun t => t.result) = some (.position 115) := by decide +kernel
/-- V9.19 -/
theorem test_block_ignored : streams [true] .blch State.reset = ([], [.blockIgnored (.channel .blch)]) := by decide +kernel
/-- V10.1, V10.4 -/
theorem test_strip_fill_bits :
    returned (.stripFillBits (natToBits 8 0b10111000)) = some (.bits (natToBits 4 0b1011)) ∧
    returned (.stripFillBits (z 5)) = some (.bits []) := by decide +kernel
/-- P6, the code in the table's own row -/
theorem test_length_row : returned (.liOctets48to55 5) = some (.number 53) ∧ returned (.decodeLength 0b111101) = some (.number 0) := by
  decide +kernel
/-- Program A -/
theorem test_dissociation :
    (let t := handoff (hex 37 148 0x00411234561FFFFF0456ABCDEF14555555550 ++ z 120) .schF State.reset
     (t.emissions, t.burst.dissocCount, t.umEnc[5])) =
      ([⟨.schF, List.replicate 21 true, ⟨1, 0x123456, 0, 0, 0, 0, 0⟩, ⟨1, 1, 1⟩⟩,
        ⟨.schF, hex 8 31 0xAAAAAAAA, ⟨6, 0xABCDEF, 0, 0, 0, 5, 1⟩, ⟨1, 1, 1⟩⟩], 2, 1) := by decide +kernel
/-- Program B: MAC-RESOURCE, MAC-FRAG, MAC-END; the three units of its three blocks. -/
theorem test_fragmentation :
    (runTrace [.dissect .schHd (hex 31 124 0x01F9000ABC1FFFFFFFFFFFFFFFFFFFF), .dissect .schHd (hex 31 124 0x4CCCCCCCCCCCCCCCCCCCCCCCCCCCCCC),
      .dissect .schHd (hex 31 124 0x6204924924924924924924924924924)] State.reset).emissions =
      [⟨.schHd, List.replicate 81 true ++ natToBits 120 0xCCCCCCCCCCCCCCCCCCCCCCCCCCCCCC ++ hex 28 111 0x9249249249249249249249249249,
        ⟨1, 0xABC, 0, 0, 0, 0, 0⟩, ⟨1, 1, 1⟩⟩] := by decide +kernel
/-- Program G: the second block of one burst reaches the cap. -/
theorem test_dissociation_cap :
    (let c := hex 68 268 0x0C0C0C0C0C0C0C0C0C0C0C0C0C0C0C0C0C0C0C0C0C0C0C0C0C0C0C0C0C0C0C0C0C0C
     let t := runTrace [.dissect .schF c, .dissect .schF c] State.reset
     (t.burst.dissocCount, t.output)) = (32, [.log (.dissocOverflow .schF)]) := by decide +kernel
/-- V11.2 -/
theorem test_frag_ssi_mismatch :
    (after (.fragAppend [true, true] { zeroAddress with ssi := 0xDEF }) (fragStart { zeroAddress with ssi := 0xABC } ⟨1, 1, 1⟩ State.reset)).map
      (fun t => (t.frag.stopped, t.frag.buffer, t.logs)) = some (true, [], [.defragSsiMismatch 0xABC 0xDEF]) := by decide +kernel
/-- V11.7 -/
theorem test_frag_start :
    (after (.fragStart { zeroAddress with ssi := 0xABC } ⟨3, 7, 9⟩) State.reset).map (fun t => t.frag) =
      some ⟨false, { zeroAddress with ssi := 0xABC }, 0xABC, ⟨3, 7, 9⟩, 0, [], 0, 0⟩ := by decide +kernel
/-- V12.1 -/
theorem test_input_unpack :
    (after (.inputUnpack 0x0B) { State.reset with packMode := true }).map (fun t => t.result) =
      some (.bits [true, true, false, true, false, false, false, false]) := by decide +kernel
/-- V12.5 -/
theorem test_emit :
    (after (.emit .schF [true, true, true]) ((at_ 2 1 1).setAddr { zeroAddress with ssi := 0x123456 })).map (fun t => t.emissions) =
      some [⟨.schF, [true, true, true], { zeroAddress with ssi := 0x123456 }, ⟨2, 1, 1⟩⟩] := by decide +kernel
/-- V12.6 -/
theorem test_io_error : (after .ioError State.reset).map (fun t => (t.halted, t.logs)) = some (true, [.ioError]) := by decide +kernel
/-- Program D: a halted block takes no step; reset clears it. -/
theorem test_stop_and_reset :
    (runTrace [.feed (natToBits 12 0x1AD), .stop, .feed [true]] State.reset).sync.buffer = natToBits 12 0x1AD ∧
    (runTrace [.feed (natToBits 12 0x1AD), .stop, .feed [true], .reset] State.reset).sync = State.reset.sync := by decide +kernel
/-- 47 R384, log entry 31: a halted block appends nothing at the test entry. -/
theorem test_dissect_halted :
    runTrace [.stop, .dissect .schF (z 268), .dissect .bsch (z 60)] State.reset = stopBlock State.reset := rfl
/-- A word of the table runs as the first operation after reset (log entry 1). -/
theorem test_fetch_word :
    (match step (State.reset.withFetchWord 8 0x30) with | .next t => some t.time | _ => none) = some ⟨2, 1, 1⟩ := by decide +kernel

/-! ### Every statement with premises has operands and a state that meet them, clause by clause -/

/-- The word of `TIME_INC`. -/
def timeIncWord : Bits := natToBits 11 0b000_00110000

theorem witness_DecodeOfEncode : (Instr.bvGetValue .syncBuffer 65535 64).wf = true := by decide +kernel

theorem witness_DecodedWordIsEncoding : decodes (timeIncWord ++ z 3) .timeInc = true := by decide +kernel

/-- A state with these words at the port. -/
def withWords (words : List Bits) : State := State.reset.setOps words

theorem witness_StepRunsDecoded :
    (withWords [timeIncWord]).ops = timeIncWord :: [] ∧ decodes timeIncWord .timeInc ∧ (withWords [timeIncWord]).halted = false ∧
    ((withWords [timeIncWord]).setHalted true).ops = timeIncWord :: [] ∧ ((withWords [timeIncWord]).setHalted true).halted = true ∧
    (withWords [[]]).ops = [] :: [] ∧ rejects [] .tooShort := by decide +kernel

/-- A state with these inputs pending. -/
def withInputs (bytes : List Byte) (symbols : Bits) (reset stop ioError : Bool) : State :=
  State.reset.setEnv ⟨bytes, symbols, reset, stop, ioError, false, false⟩

theorem witness_StepTakesInputs :
    (∀ b : Bool, (withInputs [] [] b b b).ops = [] ∧ (withInputs [] [] b b b).env.resetPending = b) ∧
    ((withInputs [] [] false true true).setHalted true).halted = true ∧
    (withInputs [0] [true] false true true).env.stopPending = true ∧
    (withInputs [0] [true] false false true).env.symbols = [true] ∧
    ((withInputs [3] [] false false true).env.bytes = [3] ∧ (withInputs [3] [] false false true).packMode = false) ∧
    ({ withInputs [3] [] false false true with packMode := true }).packMode = true ∧
    (withInputs [] [] false false true).env.ioErrorPending = true := by decide +kernel

theorem safe_withWords (words : List Bits) : Safe (withWords words) :=
  ⟨rfl, rfl, rfl, rfl, Nat.zero_le _, Nat.zero_le _, Nat.zero_le _, rfl, by
    intro e he; simp [withWords, State.emissions, State.reset] at he⟩

/-- Whether a step goes on. -/
def goesOn (a : Answer) : Bool := match a with | .next _ => true | _ => false

theorem witness_EveryStepKeepsSafe : Safe (withWords [timeIncWord]) ∧ goesOn (step (withWords [timeIncWord])) = true :=
  ⟨safe_withWords _, by decide +kernel⟩

theorem witness_InputStepKeepsBounded :
    (withInputs [] [true] false false false).ops = [] ∧ Bounded (withInputs [] [true] false false false) ∧
    goesOn (step (withInputs [] [true] false false false)) = true :=
  ⟨rfl, ⟨by decide, by decide, by decide⟩, by decide +kernel⟩

theorem witness_WellFormedOperationsGoOn :
    (Instr.hamming .fragBuffer (.value [])).wf = true ∧
    (∀ a b, Instr.hamming .fragBuffer (.value []) = .hamming a b → (readVec State.reset a).length = (readVec State.reset b).length) := by
  refine ⟨by decide, fun a b h => ?_⟩
  cases h
  decide

theorem witness_OutputOnlyGrows : goesOn (step (withInputs [] [] false false true)) = true := by decide +kernel

theorem witness_ConfigurationFixed : goesOn (exec .reset State.reset) = true ∧ goesOn (exec .timeInc State.reset) = true ∧ Instr.timeInc ≠ .reset := by
  decide +kernel

theorem witness_StateWriters :
    goesOn (exec (.dissectBsch (z 60)) State.reset) = true ∧ goesOn (exec (.sysinfo (z 78) .bnch) State.reset) = true ∧
    goesOn (exec (.macFrag 0 (z 8) .schF) State.reset) = true ∧ goesOn (exec .stop State.reset) = true ∧
    goesOn (exec (.umacDispatch (z 14) .aach) State.reset) = true ∧ goesOn (exec (.umacDispatch (z 124) .bnch) State.reset) = true ∧
    goesOn (exec (.lmacNdb (z 510)) State.reset) = true ∧ goesOn (exec (.lmacBurst (z 510) .ndbSf) State.reset) = true ∧
    goesOn (exec (.fragStart zeroAddress ⟨4, 18, 60⟩) State.reset) = true := by decide +kernel

theorem witness_StopHaltsUntilReset :
    ((withWords [timeIncWord]).setHalted true).halted = true ∧ ((withWords [timeIncWord]).setHalted true).env.resetPending = false ∧
    decodes timeIncWord .reset = false ∧ goesOn (step ((withWords [timeIncWord]).setHalted true)) = true := by decide +kernel

theorem witness_PortsUnpackAndEmit :
    State.reset.packMode = false ∧ ({ State.reset with packMode := true }).packMode = true ∧ ([true] : Bits) ≠ [] := by decide +kernel

/-- A state with this synchronizer. -/
def synced (x : SyncState) : State := State.reset.setSync x

theorem witness_RxSymbolFillsWindow :
    ((synced ⟨true, 5, z 508, false⟩).sync.buffer.length < 509 ∧ (synced ⟨true, 5, z 508, false⟩).params.syncDecOnPartial = true) ∧
    ({ State.reset with params := { Params.default with syncDecOnPartial := false } }).params.syncDecOnPartial = false ∧
    (synced ⟨false, 0, [], true⟩).sync.bitCounter = 0 ∧ 1 < (synced ⟨true, 2, [], false⟩).sync.bitCounter ∧
    ((synced ⟨true, 1, [], false⟩).sync.bitCounter = 1 ∧ (synced ⟨true, 1, [], false⟩).sync.lossReported = false) ∧
    ((synced ⟨true, 1, [], true⟩).sync.bitCounter = 1 ∧ (synced ⟨true, 1, [], true⟩).sync.lossReported = true) := by decide +kernel

theorem witness_RxSymbolOnFullWindow :
    (z 509).length = 509 ∧ Params.default.wf = true ∧
    ((natToBits 12 0b000110101101 ++ z 488 ++ natToBits 9 0b101101110).length = 509 ∧
      windowMatches Params.default (natToBits 12 0b000110101101 ++ z 488 ++ natToBits 9 0b101101110 ++ [false]) = true) ∧
    windowMatches Params.default (z 509 ++ [false]) = false ∧
    ((synced ⟨true, 510, z 509, false⟩).sync.synchronized = true ∧ (synced ⟨true, 510, z 509, false⟩).sync.bitCounter % 510 = 0) ∧
    (synced ⟨false, 0, z 509, true⟩).sync.synchronized = false ∧ (synced ⟨true, 511, z 509, false⟩).sync.bitCounter % 510 ≠ 0 := by
  decide +kernel

theorem witness_SyncMatchTest :
    (natToBits 12 0b000110101101 ++ z 488 ++ natToBits 10 0b1011011101).length = 510 ∧ Params.default.wf = true ∧
    ((natToBits 12 0b000110101101 ++ z 488 ++ natToBits 10 0b1011011101).take 12 = bvToBits Params.default.tsN3Begin ∧
      ((List.range 10).filter fun i => (natToBits 12 0b000110101101 ++ z 488 ++ natToBits 10 0b1011011101)[500 + i]? !=
        (bvToBits Params.default.tsN3End)[i]?).length < 2) ∧
    (z 510).take 12 ≠ bvToBits Params.default.tsN3Begin := by decide +kernel

/-- While the window fills, no symbol finds a frame. -/
theorem feed_partial (s : State) (hh : s.halted = false) (v : Bits) : s.sync.buffer.length + v.length ≤ 509 →
    (v.foldl feedSymbol s).halted = false ∧ (v.foldl feedSymbol s).sync.buffer.length = s.sync.buffer.length + v.length ∧
      (v ≠ [] → (v.foldl feedSymbol s).frameFound = false) := by
  induction v generalizing s with
  | nil => simp [hh]
  | cons b v ih =>
    intro hl
    simp only [List.length_cons] at hl
    have hp := rxSymbol_partial (b := b) (s := s) (by omega)
    have ht (u : State) : (counterTick u).halted = u.halted ∧ (counterTick u).sync.buffer = u.sync.buffer := by
      obtain ⟨⟨sy, n, w, l⟩, _⟩ := u
      rcases n with _ | _ | n <;> cases l <;> exact ⟨rfl, rfl⟩
    have h1 : (feedSymbol s b).halted = false ∧ (feedSymbol s b).sync.buffer.length = s.sync.buffer.length + 1 ∧
        (feedSymbol s b).frameFound = false := by
      simp only [feedSymbol, hh, Bool.false_eq_true, if_false, hp, State.setFrameFound_halted, State.setFrameFound_sync,
        State.setFrameFound_frameFound]
      split <;> simp [ht, setBuffer, hh]
    obtain ⟨i1, i2, i3⟩ := ih (feedSymbol s b) h1.1 (by omega)
    refine ⟨i1, by rw [List.foldl_cons, i2, h1.2.1, List.length_cons]; omega, fun _ => ?_⟩
    cases v with
    | nil => exact h1.2.2
    | cons c v => exact i3 (by simp)

/-- The state after a match. -/
def matched : State := synced ⟨true, 25499, [], false⟩

/-- A symbol in an empty window, one that completes the window, one before the counter runs out. -/
theorem witness_GraceWindowsEvery510Symbols_step :
    (synced ⟨true, 25499, [], false⟩).sync.buffer.length = (25499 - 25499) % 510 ∧
    ((synced ⟨true, 24990, z 509, false⟩).sync.buffer.length = (25499 - 24990) % 510 ∧
      windowMatches (synced ⟨true, 24990, z 509, false⟩).params (z 509 ++ [false]) = false) ∧
    (synced ⟨true, 2, z 507, false⟩).sync.buffer.length = (25499 - 2) % 510 ∧
    (synced ⟨true, 2, z 507, false⟩).params.syncDecOnPartial = true := by decide +kernel

/-- A whole window of zeros after a match, handed on at its last symbol. -/
theorem witness_GraceWindowsEvery510Symbols :
    matched.halted = false ∧ matched.params.syncDecOnPartial = true ∧ matched.sync.synchronized = true ∧
    matched.sync.bitCounter = 25499 ∧ matched.sync.buffer = [] ∧ (z 510).length ≤ 25499 ∧
    (∀ k, 0 < k → k ≤ (z 510).length → (((z 510).take k).foldl feedSymbol matched).frameFound = false) := by
  have hz : (z 510).length = 510 := List.length_replicate
  refine ⟨rfl, rfl, rfl, rfl, rfl, by rw [hz]; omega, fun k h0 hk => ?_⟩
  rw [hz] at hk
  rcases Nat.lt_or_ge k 510 with h | h
  · have hl : ((z 510).take k).length = k := by rw [List.length_take, hz]; omega
    refine (feed_partial matched rfl ((z 510).take k) ?_).2.2 ?_
    · rw [hl]; exact Nat.le_trans (Nat.le_of_eq (Nat.zero_add k)) (by omega)
    · intro he; rw [he] at hl; exact absurd hl.symm (by simp; omega)
  · obtain rfl : k = 510 := by omega
    decide +kernel

theorem witness_ProcessBurstClassifies :
    (z 510).length = 510 ∧ 5 < hamming ((z 510).slice 214 252) (bvToBits Params.default.tsSync) ∧
    5 < hamming ((z 510).slice 244 266) (bvToBits Params.default.tsN1) ∧ 5 < hamming ((z 510).slice 244 266) (bvToBits Params.default.tsN2) ∧
    hamming ((z 244 ++ natToBits 22 0b1101000011101001110100 ++ z 244).slice 244 266) (bvToBits Params.default.tsN1) ≤ 5 := by
  decide +kernel

theorem witness_BurstClassRows :
    ((z 214).length = 214 ∧ (z 258).length = 258) ∧ (z 244).length = 244 ∧ Params.default.tsN1 ≠ Params.default.tsN2 ∧
    (z 244 ++ bvToBits Params.default.tsN1 ++ z 244).slice 214 252 ≠ bvToBits Params.default.tsSync ∧
    (z 244 ++ bvToBits Params.default.tsN2 ++ z 244).slice 214 252 ≠ bvToBits Params.default.tsSync := by decide +kernel

theorem witness_GetValueReadsField :
    (0 + 64 ≤ (readVec State.reset (.value (z 64))).length) ∧ ((readVec State.reset (.value (z 7))).length < 8 + 0) ∧ 64 < 65 ∧
    returned (.bvGetValue (.value (natToBits 7 0b0010110)) 0 3) = some (.number 1) ∧
    returned (.bvGetValue (.value (natToBits 7 0b0010110)) (0 + 3) 4) = some (.number 6) := by decide +kernel

theorem witness_SizeResizeHammingAppend :
    (readVec State.reset .fragBuffer).length = (readVec State.reset .syncBuffer).length ∧
    (readVec State.reset .fragBuffer).length ≠ (readVec State.reset (.value [true])).length := by decide +kernel

theorem witness_DescrambleSequence : 0 < 1 ∧ 431 < 432 ∧ State.reset.params.scrambleSeq = .default := by decide +kernel

theorem witness_DeinterleavePermutes :
    (z 120).length = 120 ∧ (z 216).length = 216 ∧ (z 432).length = 432 ∧ (z 119).length ≠ 120 := by decide +kernel

theorem witness_DepuncturePlacesBits :
    (z 120).length = 120 ∧ Params.default.punct.p1 ≠ Params.default.punct.p2 ∧ Params.default.punct.p1 ≠ Params.default.punct.p3 ∧
    Params.default.punct.p2 ≠ Params.default.punct.p3 := by decide +kernel

theorem witness_ViterbiIsMaximumLikelihood :
    (List.replicate 320 Sym.erased).length = 320 ∧ State.reset.params.viterbi = .default ∧ 79 < (z 80).length := by decide +kernel

theorem witness_ViterbiRecoversCodewords :
    (z 80).length = 80 ∧ State.reset.params.punct = Params.default.punct ∧ (z 80).length % 2 = 0 := by decide +kernel

theorem witness_ReedMullerRecoversCodewords : (hex 4 14 0x8A1C).length = 14 := by decide +kernel

theorem witness_CrcComparesTrailingBits : (natToBits 16 0xE503).length = 16 ∧ (z 15).length < 16 := by decide +kernel

theorem witness_TimeIncIsNextSlot : (at_ 4 18 60).time.wf = true := by decide +kernel

theorem witness_TimePeriod : (⟨1, 1, 1⟩ : TetraTime).wf = true ∧ 0 < 4319 ∧ 4319 < 4320 := by decide +kernel

theorem witness_TimeSetAndScrambleInit :
    (1 ≤ (18#5).toNat ∧ (18#5).toNat ≤ 18 ∧ 1 ≤ (60#6).toNat ∧ (60#6).toNat ≤ 60) ∧ (0#5).toNat = 0 ∧ 18 < (19#5).toNat ∧
    (0#6).toNat = 0 ∧ 60 < (61#6).toNat ∧ State.reset.params.scrambleInit = .default := by decide +kernel

theorem witness_LmacBurstClearsThenRuns : (z 510).length = 510 := by decide +kernel

theorem witness_FecDecodesEncodedBlock :
    (z 60).length = 60 ∧ (z 124).length = 124 ∧ (z 268).length = 268 ∧ State.reset.params.punct = Params.default.punct := by decide +kernel

/-- Program F: a block whose CRC is inverted. -/
theorem witness_FecFailureDropsBlock :
    (hex 30 120 0xBB3A6C5BCA51A00C72E11B5F7E6A9A).length = 120 ∧
    crc16Check Params.default.crcXorout
      ((fecBits Params.default (hex 30 120 0xBB3A6C5BCA51A00C72E11B5F7E6A9A) 3 .k120).take 76) = false ∧ (z 119).length ≠ 120 := by
  decide +kernel

theorem witness_SbHandsOverWithFreshKey :
    (z 94).length = 94 ∧ (hex 15 60 0x014902006800020).length = 60 ∧ (z 38).length = 38 ∧ (z 14).length = 14 ∧ (z 124).length = 124 ∧
    (z 12).length = 12 ∧ State.reset.params.punct = Params.default.punct := by decide +kernel

/-- An AACH in traffic mode, and one that is not. -/
theorem witness_NdbHandsOverAachFirst :
    (hex 4 14 0x8A1C).length = 14 ∧ (z 432).length = 432 ∧ (z 268).length = 268 ∧
    (handoff (hex 4 14 0x8A1C) .aach (at_ 1 17 1)).mac.downlinkUsage = .traffic ∧
    (1 ≤ (handoff (hex 4 14 0x8A1C) .aach (at_ 1 17 1)).time.fn ∧ (handoff (hex 4 14 0x8A1C) .aach (at_ 1 17 1)).time.fn ≤ 17) ∧
    (handoff (z 14) .aach (at_ 1 17 1)).mac.downlinkUsage ≠ .traffic := by decide +kernel

/-- The block of V9.10 steals the second slot; an all-zero block does not. -/
theorem witness_NdbSfSplitsHalfSlots :
    (hex 31 124 0x01F1ABCDEF1FFFFFFFFFFFFFFFFFFFF).length = 124 ∧
    ((handoff (z 14) .aach (at_ 2 18 3)).mac.downlinkUsage ≠ .traffic ∧ (handoff (z 14) .aach (at_ 2 18 3)).time.fn = 18 ∧
      ((handoff (z 14) .aach (at_ 2 18 3)).time.mn + (handoff (z 14) .aach (at_ 2 18 3)).time.tn) % 4 = 1) ∧
    (handoff (z 14) .aach (at_ 2 17 3)).time.fn ≠ 18 ∧
    ((handoff (z 14) .aach (at_ 1 18 3)).time.mn + (handoff (z 14) .aach (at_ 1 18 3)).time.tn) % 4 ≠ 1 ∧
    (handoff (hex 31 124 0x01F1ABCDEF1FFFFFFFFFFFFFFFFFFFF) .stch (handoff (hex 4 14 0x8A1C) .aach (at_ 1 5 1))).mac.secondSlotStolen = true ∧
    (handoff (z 124) .stch (handoff (hex 4 14 0x8A1C) .aach (at_ 1 5 1))).mac.secondSlotStolen = false := by decide +kernel

/-- A half-slot block under the code 3 whose CRC is wrong. -/
def badHalfSlot : Bits :=
  descramble Params.default (interleave .k216 (puncture Params.default.punct (convEncode (z 144)))) 3

theorem badHalfSlot_crc :
    crc16Check Params.default.crcXorout ((fecBits Params.default badHalfSlot 3 .k216).take 140) = false := by decide +kernel

/-- It is dropped with its record. -/
theorem badHalfSlot_dropped (s : State) (h : s.params = Params.default) :
    HandedOver badHalfSlot 3 .k216 .stch s (s.log (.fecFail 216 140)) := by
  have hl : (badHalfSlot.length == blockK .k216) = true := by decide +kernel
  refine .inr ⟨?_, rfl⟩
  have hc : crc16Check s.params.crcXorout ((fecBits s.params badHalfSlot 3 .k216).slice 0 (blockCrc .k216)) = false := by
    rw [h]; exact badHalfSlot_crc
  simp only [exec, execFecDecodeBlock, hl, inDomain, if_true, fecDecodeBlock, hc, Bool.false_eq_true, if_false]
  rfl

/-- The AACH of V9.1, sent under the code 3, is decoded, whatever the Reed-Muller code. -/
theorem trafficAach_decoded (s : State) (h : s.params = Params.default) :
    exec (.aachDecodeBlock (aachEncode s.params (hex 4 14 0x8A1C) 3) 3) s = .next (s.returns (.bits (hex 4 14 0x8A1C))) := by
  have hx (x k : Bits) (hl : x.length = k.length) : xorBits (xorBits x k) k = x := by
    induction x generalizing k with
    | nil => rfl
    | cons a x ih =>
      cases k with
      | nil => simp at hl
      | cons b k => simp only [xorBits, List.zipWith_cons_cons] at ih ⊢; rw [ih k (by simpa using hl)]; simp
  have hs : (scrambleSeq Params.default 3 30).length = 30 := by decide +kernel
  have hr : (rmEncodeBits (hex 4 14 0x8A1C)).length = 30 := by simp [rmEncodeBits]
  have he : (aachEncode s.params (hex 4 14 0x8A1C) 3).length = 30 := by
    rw [h, aachEncode, descramble, hr, xorBits, List.length_zipWith, hr, hs]; rfl
  have hd : aachDecodeBlock s.params (aachEncode s.params (hex 4 14 0x8A1C) 3) 3 = hex 4 14 0x8A1C := by
    rw [aachDecodeBlock, descramble, he, aachEncode, descramble, hr, h, hx _ _ (hr.trans hs.symm), rmDecode, rmEncodeBits]
    simp only [bitsToNat_bvToBits, BitVec.ofNat_toNat, BitVec.setWidth_eq, Config.rmCode]
    rw [RmCode.correct]
    decide +kernel
  simp only [exec, execAachDecodeBlock, he, inDomain, hd]
  rfl

/-- After that AACH: in traffic mode, the second slot stolen before or not, BKN1 dropped; and an AACH that is not traffic. -/
theorem witness_BurstHandlersOnAnyWindow :
    (z 510).length = 510 ∧
    exec (.aachDecodeBlock (aachEncode (at_ 1 5 1).params (hex 4 14 0x8A1C) 3) 3) (at_ 1 5 1) =
      .next ((at_ 1 5 1).returns (.bits (hex 4 14 0x8A1C))) ∧
    ((handoff (hex 4 14 0x8A1C) .aach (at_ 1 5 1)).mac.downlinkUsage = .traffic ∧
      1 ≤ (handoff (hex 4 14 0x8A1C) .aach (at_ 1 5 1)).time.fn ∧ (handoff (hex 4 14 0x8A1C) .aach (at_ 1 5 1)).time.fn ≤ 17) ∧
    (∀ b : Bool, HandedOver badHalfSlot 3 .k216 .stch (handoff (hex 4 14 0x8A1C) .aach (setStolen (at_ 1 5 1) b))
        ((handoff (hex 4 14 0x8A1C) .aach (setStolen (at_ 1 5 1) b)).log (.fecFail 216 140)) ∧
      ((handoff (hex 4 14 0x8A1C) .aach (setStolen (at_ 1 5 1) b)).log (.fecFail 216 140)).mac.secondSlotStolen = b) ∧
    (handoff (z 14) .aach (at_ 2 18 3)).mac.downlinkUsage ≠ .traffic ∧
    (handoff (z 14) .aach (at_ 2 18 3)).time.fn = 18 := by
  refine ⟨by decide +kernel, trafficAach_decoded _ rfl, by decide +kernel, fun b => ⟨badHalfSlot_dropped _ ?_, ?_⟩, by decide +kernel⟩
  · exact (macStep_handoff _ _ _).outside.params
  · cases b <;> decide +kernel

theorem witness_HandoffSetsChannel : goesOn (exec .timeInc State.reset) = true := by decide +kernel

theorem witness_UmacDispatchRoutes : 8 ≤ (z 8).length ∧ (z 1).length < 2 ∧ 2 ≤ (z 7).length ∧ (z 7).length < 8 ∧ LogicalChannel.tch ∈ [LogicalChannel.tch, .blch, .unknown] := by decide +kernel

theorem witness_AachUsageMap :
    (at_ 1 18 1).time.fn = 18 ∧ (at_ 1 17 1).time.fn ≠ 18 ∧ (1#2) ≠ 0 ∧ 4 ≤ (4#6).toNat ∧ 4 ≤ (63#6).toNat := by decide +kernel

theorem witness_BschUpdatesCell :
    (⟨(0#2).toNat + 1, (18#5).toNat, (60#6).toNat⟩ : TetraTime).wf = true ∧ (⟨(3#2).toNat + 1, (0#5).toNat, (1#6).toNat⟩ : TetraTime).wf = false ∧
    (z 59).length < 60 := by decide +kernel

theorem witness_SysinfoSetsFrequency :
    82 ≤ (natToBits 4 0b1000 ++ (natToBits 12 1234 ++ natToBits 4 4 ++ natToBits 2 1 ++ z 60)).length ∧ (z 81).length < 82 ∧
    (z 77).length < 78 := by decide +kernel

theorem witness_LengthIndications : (Instr.liOctets58, 58) ∈
    [(Instr.liReserved0, 0), (.liOctets1, 1), (.liOctets18, 18), (.liOctets19, 19), (.liOctets58, 58), (.liReserved59, 0),
      (.liSecondHalfStolen, 62), (.liStartFragmenting, 63)] := by decide +kernel

/-- A MAC-RESOURCE under an SSI, all three flags 0, the TM-SDU 10101; then with its fill bit set and fill bits behind it. -/
def resourcePdu (fill : Bool) (li : BitVec 6) : Bits :=
  [false, false, fill, false] ++ z 3 ++ bvToBits li ++ natToBits 3 0b001 ++ natToBits 24 0x123456 ++ z 2 ++ (false :: natToBits 5 0b10101)

theorem witness_MacResourceCommits :
    resourcePdu false 6 = resourcePdu false 6 ∧ State.reset.keepFillBits = false ∧
    (resourcePdu true 6 ++ [true, false] = appendFillBits (resourcePdu true 6) 1) ∧ (false :: natToBits 5 0b10101).head? = some false ∧
    (true :: z 25).head? = some true ∧
    returned (.parseChanAlloc (z 42 ++ true :: natToBits 25 0b00_0000_01_0_0_000000000000_0_01) 43) = some (.position 68) ∧
    (63#6).toNat = 63 ∧ (0#6).toNat = 0 ∧ (59#6).toNat = 59 ∧ (60#6).toNat = 60 ∧ (61#6).toNat = 61 ∧ (62#6).toNat = 62 ∧
    1 ≤ (1#6).toNat ∧ (58#6).toNat ≤ 58 := by decide +kernel

theorem witness_ChannelAllocationElement :
    true :: bvToBits 0#10 ∈ [[false], true :: bvToBits 0#10] ∧ [false] ∈ [[false], true :: bvToBits 0#16] := by decide +kernel

theorem witness_MacFragAppends :
    (0#1) = 0 ∧ ({ State.reset with keepFillBits := true }).keepFillBits = true ∧ State.reset.keepFillBits = false := by decide +kernel

theorem witness_MacEndEmitsReassembly :
    (false :: [true]).head? = some false ∧ appendFillBits [true] 2 = [true, true, false, false] ∧
    2 ≤ (2#6).toNat ∧ (34#6).toNat ≤ 34 ∧ (fragAppend [true] zeroAddress (fragStart zeroAddress ⟨1, 1, 1⟩ State.reset)).frag.stopped = false ∧
    (fragAppend [true] zeroAddress State.reset).frag.stopped = true ∧ (1#6).toNat < 2 ∧ 34 < (35#6).toNat := by decide +kernel

theorem witness_MacDBlckEmitsRemainder :
    ((0#1) = 0 ∧ State.reset.keepFillBits = false) ∧ (1#1) = 1 ∧ ({ State.reset with keepFillBits := true }).keepFillBits = true := by
  decide +kernel

theorem witness_UnitsWithoutSdu :
    SigChannel.schHd ≠ .schF ∧ ((1#1) = 1 ∧ State.reset.keepFillBits = false) ∧ (0#1) = 0 ∧
    appendFillBits (natToBits 16 0b00_1_0_00_0_000000_000) 2 = natToBits 19 0b00_1_0_00_0_000000_000_100 := by decide +kernel

theorem witness_AbandonedUnitWritesNothing :
    returned (.macResource 0 (natToBits 16 0b000_001010_001_0000) .schF) = some (.raised ⟨16, 24, 20⟩) ∧
    returned (.dissectMacEnd (natToBits 11 0b01100010000) .schHd) = some (.raised ⟨11, 1, 11⟩) := by decide +kernel

/-- Whether one dissection unit is abandoned; its kind and the bits left behind it where it is not. -/
def unitOf (blk : Bits) : Option (UnitKind × Option Int × Nat) :=
  match dissectOne blk .schF State.reset with
  | .error _ => none
  | .ok (r, _) => some (r.kind, r.sizeInMac, r.pdu.length)

/-- Abandoned; a NULL PDU; a MAC-RESOURCE with 39 bits left; with 40 bits left, under either count. -/
theorem witness_DissociationGoesUnitByUnit :
    unitOf (natToBits 20 0b0000000_001010_001_0000) = none ∧ unitOf (z 124) = some (.null, some (-1), 124) ∧
    unitOf (hex 12 47 0x0C0C0C0C0C0C) = some (.resource, some 8, 47) ∧ unitOf (hex 12 48 0x0C0C0C0C0C0C) = some (.resource, some 8, 48) ∧
    State.reset.burst.dissocCount < 32 ∧
    (State.reset.setBurst { State.reset.burst with dissocCount := 32 }).burst.dissocCount = 32 := by decide +kernel

theorem witness_OneBlockNeverOverflows :
    State.reset.burst.dissocCount = 0 ∧ (z 268).length ≤ 268 ∧ (z 124).length ≤ 124 := by decide +kernel

/-- A reassembly under way, with two bits in it. -/
def assembling : State := fragAppend [true, false] zeroAddress (fragStart zeroAddress ⟨1, 1, 1⟩ State.reset)

theorem witness_DefragmenterOperations :
    State.reset.frag.buffer = [] ∧ assembling.frag.buffer ≠ [] ∧ State.reset.frag.stopped = true ∧ assembling.frag.stopped = false ∧
    ({ zeroAddress with ssi := 1 }).ssi ≠ assembling.frag.ssi ∧ zeroAddress.ssi = assembling.frag.ssi ∧
    assembling.params.fragCap < assembling.frag.buffer.length + (z 4423).length ∧
    assembling.frag.buffer.length + (z 4422).length ≤ assembling.params.fragCap := by decide +kernel

theorem witness_ReassemblyIsConcatenation : [z 81, z 120, z 111].flatten.length ≤ State.reset.params.fragCap := by decide +kernel

end Sys2Proof.Tests
end

section
/-! The invariants of whole steps (family 10_state): what a symbol does to the state outside the synchronizer, what it leaves in the synchronizer, and then the statements about every step. -/

namespace Sys2Proof.Machine

/-! ### Steps of the block outside the synchronizer -/

/-- What a symbol may do to everything but the synchronizer: what any part of the MAC may do, from the state that has the synchronizer already as it ends. -/
def SyncStep (s t : State) : Prop := MacStep (s.setSync t.sync) t

/-- No part of the MAC looks at the synchronizer, so any one may stand beside its step (10 R20 to R23). -/
theorem MacStep.withSync {s t : State} (h : MacStep s t) (x : SyncState) : MacStep (s.setSync x) (t.setSync x) where
  outside :=
    ⟨rfl, h.outside.halted, h.outside.keepFillBits, h.outside.packMode, h.outside.params, h.outside.env,
      h.outside.frameFound, h.outside.ops⟩
  grew := h.grew
  time := h.time
  startTime := h.startTime
  fragmentCount := h.fragmentCount
  dissocCount := h.dissocCount
  fragBuffer := h.fragBuffer
  stopped := h.stopped

theorem SyncStep.of_macStep {s t : State} (h : MacStep s t) : SyncStep s t := by
  unfold SyncStep
  rw [h.outside.sync]
  exact h

theorem SyncStep.trans {s t u : State} (h : SyncStep s t) (h' : SyncStep t u) : SyncStep s u :=
  (h.withSync u.sync).trans h'

theorem syncStep_setSync (s : State) (x : SyncState) : SyncStep s (s.setSync x) := MacStep.refl _

theorem syncStep_loseSync (s : State) : SyncStep s (loseSync s) := by
  unfold loseSync
  split
  · exact syncStep_setSync s _
  · exact (SyncStep.of_macStep (macStep_log s _)).trans (syncStep_setSync _ _)

theorem syncStep_counterTick (s : State) : SyncStep s (counterTick s) := by
  unfold counterTick
  split
  · exact .of_macStep (.refl s)
  · exact (syncStep_setSync s _).trans (syncStep_loseSync _)
  · exact syncStep_setSync s _

theorem syncStep_handWindowOn (s : State) : SyncStep s (handWindowOn s) :=
  (SyncStep.of_macStep ((macStep_timeInc s).trans (macStep_processBurst s.sync.buffer _))).trans (syncStep_setSync _ _)

/-! ### What a symbol does -/

/-- The states a symbol may leave, `v` being the window with the symbol appended (43 R220): the window fills, with or without a tick; a full window is handed on, after a match or in grace; or it slides. -/
inductive SymbolOutcome (s : State) (v : Bits) : State → Prop where
  | filled (h : v.length < burstLen) : SymbolOutcome s v (setBuffer s v)
  | ticked (h : v.length < burstLen) : SymbolOutcome s v (counterTick (setBuffer s v))
  | matched : SymbolOutcome s v (counterTick (handWindowOn (setSynchronized (setBuffer s v))))
  | grace : SymbolOutcome s v (counterTick (handWindowOn (setBuffer s v)))
  | slid : SymbolOutcome s v (counterTick (setBuffer s (v.slice 1 510)))

theorem rxFull_outcome (s : State) (v : Bits) : SymbolOutcome s v (rxFull (setBuffer s v)).2 := by
  cases hm : windowMatches (setBuffer s v).params (setBuffer s v).sync.buffer with
  | true => rw [rxFull_match hm]; exact .matched
  | false =>
    cases hg : graceDue (setBuffer s v) with
    | true => rw [rxFull_grace hm hg]; exact .grace
    | false => rw [rxFull_slide hm hg]; exact .slid

theorem rxSymbol_outcome (b : Bool) (s : State) : SymbolOutcome s (s.sync.buffer ++ [b]) (rxSymbol b s).2 := by
  simp only [rxSymbol]
  split
  · rename_i h
    split
    · exact .ticked h
    · exact .filled h
  · exact rxFull_outcome s _

theorem SymbolOutcome.syncStep {s t : State} {v : Bits} (h : SymbolOutcome s v t) : SyncStep s t := by
  have hb (w : Bits) : SyncStep s (setBuffer s w) := syncStep_setSync s _
  cases h with
  | filled _ => exact hb v
  | ticked _ => exact (hb v).trans (syncStep_counterTick _)
  | matched =>
    exact (hb v).trans ((syncStep_setSync _ _).trans ((syncStep_handWindowOn _).trans (syncStep_counterTick _)))
  | grace => exact (hb v).trans ((syncStep_handWindowOn _).trans (syncStep_counterTick _))
  | slid => exact (hb _).trans (syncStep_counterTick _)

/-- A symbol as an operation: a step outside the synchronizer, then the result signal and the result. -/
theorem execRxSymbol_next {b : Bool} {s t : State} (h : exec (.rxSymbol b) s = .next t) :
    ∃ u f r, SymbolOutcome s (s.sync.buffer ++ [b]) u ∧ t = (u.setFrameFound f).returns r :=
  ⟨_, _, _, rxSymbol_outcome b s, answer_next.mp h⟩

theorem syncMatch_cases (w : Bits) (s : State) : (syncMatch w s).2 = s ∨ (syncMatch w s).2 = setSynchronized s := by
  unfold syncMatch
  split
  · exact .inr rfl
  · exact .inl rfl

/-- `SYNC_MATCH` as an operation: the three writes of a match, or none (43 R222). -/
theorem execSyncMatch_next {w : Bits} {s t : State} (h : exec (.syncMatch w) s = .next t) :
    ∃ u r, (u = s ∨ u = setSynchronized s) ∧ t = u.returns r :=
  ⟨_, _, syncMatch_cases w s, answer_next.mp (inDomain_next.mp h).2⟩

/-! ### The synchronizer's registers -/

/-- The synchronizer's flag, loss flag and counter in agreement, the counter within its bound (43 R224, 10 R21, R23). -/
structure SyncAgrees (x : SyncState) : Prop where
  synchronized : x.synchronized = decide (0 < x.bitCounter)
  lossReported : x.lossReported = !x.synchronized
  counter : x.bitCounter ≤ 25500

theorem SyncAgrees.setBuffer {s : State} (h : SyncAgrees s.sync) (v : Bits) : SyncAgrees (setBuffer s v).sync :=
  ⟨h.synchronized, h.lossReported, h.counter⟩

theorem syncAgrees_setSynchronized {s : State} (hp : s.params.wf = true) : SyncAgrees (setSynchronized s).sync := by
  simp only [setSynchronized, State.setSync_sync, counterLoad_reload hp]
  exact ⟨rfl, rfl, Nat.le_refl _⟩

theorem SyncAgrees.handWindowOn {s : State} (h : SyncAgrees s.sync) : SyncAgrees (handWindowOn s).sync := by
  rw [handWindowOn_sync]
  exact ⟨h.synchronized, h.lossReported, h.counter⟩

/-- A tick keeps the agreement: the flags turn exactly where the counter reaches 0 (43 R224). -/
theorem SyncAgrees.counterTick {s : State} (h : SyncAgrees s.sync) : SyncAgrees (counterTick s).sync := by
  obtain ⟨hsync, hloss, hcount⟩ := h
  rw [counterTick_sync]
  split
  · exact ⟨hsync, hloss, hcount⟩
  · split
    · exact ⟨rfl, rfl, Nat.zero_le _⟩
    · have hpos : 0 < s.sync.bitCounter := by omega
      have hpos' : 0 < s.sync.bitCounter - 1 := by omega
      exact ⟨by simp [hsync, hpos, hpos'], hloss, by simp only; omega⟩

theorem SymbolOutcome.syncAgrees {s t : State} {v : Bits} (ho : SymbolOutcome s v t) (hp : s.params.wf = true)
    (h : SyncAgrees s.sync) : SyncAgrees t.sync := by
  cases ho with
  | filled _ => exact h.setBuffer v
  | ticked _ => exact (h.setBuffer v).counterTick
  | matched => exact (syncAgrees_setSynchronized (s := setBuffer s v) hp).handWindowOn.counterTick
  | grace => exact (h.setBuffer v).handWindowOn.counterTick
  | slid => exact (h.setBuffer _).counterTick

/-! ### Every step keeps `Safe` -/

theorem mem_emissions {s : State} {e : Emission} : e ∈ s.emissions ↔ Output.emission e ∈ s.output := by
  unfold State.emissions
  rw [List.mem_filterMap]
  constructor
  · rintro ⟨o, ho, he⟩
    cases o with
    | emission e' => cases he; exact ho
    | log r => cases he
  · exact fun h => ⟨_, h, rfl⟩

theorem Safe.syncAgrees {s : State} (h : Safe s) : SyncAgrees s.sync := ⟨h.synchronized, h.lossReported, h.counter⟩

/-- `Safe` looks at seven fields alone. -/
theorem Safe.of_eq {s t : State} (h : Safe s) (htime : t.time = s.time) (hsync : t.sync = s.sync)
    (hstart : t.frag.startTime = s.frag.startTime) (hcount : t.frag.fragmentCount = s.frag.fragmentCount)
    (hburst : t.burst = s.burst) (hparams : t.params = s.params) (hout : t.output = s.output) : Safe t where
  time := htime ▸ h.time
  startTime := hstart ▸ h.startTime
  synchronized := hsync ▸ h.synchronized
  lossReported := hsync ▸ h.lossReported
  counter := hsync ▸ h.counter
  dissocCount := hburst ▸ h.dissocCount
  fragmentCount := hcount ▸ h.fragmentCount
  params := hparams ▸ h.params
  emissions e he := h.emissions e (mem_emissions.mpr (hout ▸ mem_emissions.mp he))

theorem Safe.returns {s : State} (h : Safe s) (r : Result) : Safe (s.returns r) := h.of_eq rfl rfl rfl rfl rfl rfl rfl

theorem Safe.setSync {s : State} (h : Safe s) {x : SyncState} (hx : SyncAgrees x) : Safe (s.setSync x) :=
  ⟨h.time, h.startTime, hx.synchronized, hx.lossReported, hx.counter, h.dissocCount, h.fragmentCount, h.params, h.emissions⟩

theorem Safe.macStep {s t : State} (h : Safe s) (m : MacStep s t) : Safe t where
  time := m.time h.time
  startTime := m.startTime h.time h.startTime
  synchronized := m.outside.sync ▸ h.synchronized
  lossReported := m.outside.sync ▸ h.lossReported
  counter := m.outside.sync ▸ h.counter
  dissocCount := m.dissocCount h.dissocCount
  fragmentCount := m.fragmentCount h.fragmentCount
  params := m.outside.params ▸ h.params
  emissions e he := by
    obtain ⟨new, hgrew, hnew⟩ := m.grew
    rw [mem_emissions, hgrew] at he
    rcases List.mem_append.mp he with he | he
    exacts [h.emissions e (mem_emissions.mpr he), hnew e he]

theorem Safe.symbolOutcome {s t : State} {v : Bits} (h : Safe s) (ho : SymbolOutcome s v t) : Safe t :=
  (h.setSync (ho.syncAgrees h.params h.syncAgrees)).macStep ho.syncStep

theorem Safe.resetBlock {s : State} (h : Safe s) : Safe (resetBlock s) :=
  ⟨rfl, rfl, rfl, rfl, Nat.zero_le _, Nat.zero_le _, Nat.zero_le _, h.params, h.emissions⟩

/-- An append to a stored vector leaves the counters of its slot (40 R143). -/
theorem Safe.writeVec {s : State} (h : Safe s) (v : VecOperand) (w : Bits) : Safe (writeVec s v w) := by
  cases v with
  | value _ => exact h
  | syncBuffer => exact h.setSync ⟨h.synchronized, h.lossReported, h.counter⟩
  | fragBuffer => exact h.of_eq rfl rfl rfl rfl rfl rfl rfl

/-- A well-formed operation keeps the invariants; well-formedness matters for `FRAG_START` alone, whose time is then in range (46 R361). -/
theorem exec_safe {i : Instr} {s t : State} (hw : i.wf = true) (hs : Safe s) (h : exec i s = .next t) : Safe t := by
  cases ho : outsideMac i with
  | false =>
    obtain ⟨u, r, hm, rfl⟩ := exec_macStep ho h
    exact (hs.macStep hm).returns r
  | true =>
    cases i
    case rxSymbol b =>
      obtain ⟨u, f, r, hu, rfl⟩ := execRxSymbol_next h
      exact (hs.symbolOutcome hu).of_eq rfl rfl rfl rfl rfl rfl rfl
    case syncMatch w =>
      obtain ⟨u, r, rfl | rfl, rfl⟩ := execSyncMatch_next h
      · exact hs.returns r
      · exact (hs.setSync (syncAgrees_setSynchronized hs.params)).returns r
    case bvAppend u v =>
      obtain rfl := answer_next.mp h
      exact (hs.writeVec u _).returns _
    case fragStart a time =>
      obtain rfl := answer_next.mp h
      exact (hs.macStep (macStep_fragStart s a time fun _ => hw)).returns _
    case stop =>
      obtain rfl := answer_next.mp h
      exact hs.of_eq rfl rfl rfl rfl rfl rfl rfl
    case ioError =>
      obtain rfl := answer_next.mp h
      exact (hs.macStep (macStep_log s .ioError)).of_eq rfl rfl rfl rfl rfl rfl rfl
    case reset =>
      obtain rfl := answer_next.mp h
      exact hs.resetBlock.returns _
    all_goals cases ho

/-- Settles O6: by what the step does; an operation of the port is well-formed, because it was decoded. -/
theorem everyStepKeepsSafe : Obligations.EveryStepKeepsSafe := by
  intro s t hs h
  have hops (rest : List Bits) : Safe (s.setOps rest) := hs.of_eq rfl rfl rfl rfl rfl rfl rfl
  have henv (env : Environment) : Safe (s.setEnv env) := hs.of_eq rfl rfl rfl rfl rfl rfl rfl
  rcases step_next h with ⟨_, rest, i, _, hi, ⟨_, _, rfl⟩ | ⟨_, hx⟩⟩ | ⟨_, _, hx⟩ | ⟨_, _, _, hx⟩ |
    ⟨_, _, _, b, env, hx⟩ | ⟨_, _, _, hx⟩ | ⟨_, _, rfl⟩
  · exact hops rest
  · exact exec_safe (decode_wf hi) (hops rest) hx
  · exact exec_safe (i := .reset) rfl hs hx
  · exact exec_safe (i := .stop) rfl (henv _) hx
  · exact exec_safe (i := .rxSymbol b) rfl (henv env) hx
  · exact exec_safe (i := .ioError) rfl (henv _) hx
  · exact hs

/-! ### The stored vectors -/

/-- A symbol leaves at most 509 bits in the window, however many it found there (10 R22, 43 R220). -/
theorem SymbolOutcome.window {s t : State} {v : Bits} (ho : SymbolOutcome s v t) : t.sync.buffer.length ≤ 509 := by
  have tick (u : State) : (counterTick u).sync.buffer = u.sync.buffer := by
    rw [counterTick_sync]
    repeat' split
    all_goals rfl
  have hand (u : State) : (handWindowOn u).sync.buffer = [] := by rw [handWindowOn_sync]
  cases ho with
  | filled h => exact Nat.le_of_lt_succ h
  | ticked h => rw [tick]; exact Nat.le_of_lt_succ h
  | matched => simp [tick, hand]
  | grace => simp [tick, hand]
  | slid => rw [tick]; exact List.length_take_le _ _

/-- `Bounded` looks at the window, the slot and the parameters alone. -/
theorem Bounded.of_eq {s t : State} (h : Bounded s) (hsync : t.sync = s.sync) (hfrag : t.frag = s.frag)
    (hparams : t.params = s.params) : Bounded t where
  window := hsync ▸ h.window
  fragBuffer := by rw [hfrag, hparams]; exact h.fragBuffer
  stopped := hfrag ▸ h.stopped

theorem Bounded.symbolOutcome {s t : State} {v : Bits} (h : Bounded s) (ho : SymbolOutcome s v t) : Bounded t where
  window := ho.window
  fragBuffer := by
    rw [ho.syncStep.outside.params]
    exact ho.syncStep.fragBuffer h.fragBuffer
  stopped := ho.syncStep.stopped h.stopped

/-- Settles O7: among the hardware's own inputs a symbol alone writes a stored vector other than to empty it. -/
theorem inputStepKeepsBounded : Obligations.InputStepKeepsBounded := by
  intro s t hops hs h
  rcases step_next h with ⟨_, _, _, hw, _⟩ | ⟨_, _, hx⟩ | ⟨_, _, _, hx⟩ | ⟨_, _, _, b, env, hx⟩ | ⟨_, _, _, hx⟩ |
    ⟨_, _, rfl⟩
  · exact absurd (hops.symm.trans hw) (List.cons_ne_nil _ _).symm
  · obtain rfl := answer_next.mp hx
    exact ⟨⟨Nat.zero_le _, Nat.zero_le _, fun _ => rfl⟩, hops⟩
  · obtain rfl := answer_next.mp hx
    exact ⟨hs.of_eq rfl rfl rfl, hops⟩
  · obtain ⟨u, f, r, hu, rfl⟩ := execRxSymbol_next hx
    have henv : Bounded (s.setEnv env) := hs.of_eq rfl rfl rfl
    exact ⟨(henv.symbolOutcome hu).of_eq rfl rfl rfl, hu.syncStep.outside.ops.trans hops⟩
  · obtain rfl := answer_next.mp hx
    exact ⟨hs.of_eq rfl rfl rfl, hops⟩
  · exact ⟨hs, hops⟩

/-! ### The output streams -/

theorem MacStep.output_grew {s t : State} (h : MacStep s t) : ∃ new, t.output = s.output ++ new :=
  let ⟨new, hgrew, _⟩ := h.grew
  ⟨new, hgrew⟩

theorem fragStart_output_grew (a : MacAddress) (t : TetraTime) (s : State) :
    ∃ new, (fragStart a t s).output = s.output ++ new := by
  simp only [fragStart]
  split
  · exact ⟨[], (List.append_nil _).symm⟩
  · exact ⟨_, rfl⟩

/-- No operation takes a record back, `RESET` included (10 R39, 60 R402, 70 R440). -/
theorem exec_output_grew {i : Instr} {s t : State} (h : exec i s = .next t) : ∃ new, t.output = s.output ++ new := by
  cases ho : outsideMac i with
  | false =>
    obtain ⟨u, r, hm, rfl⟩ := exec_macStep ho h
    exact hm.output_grew
  | true =>
    have unchanged (h : t.output = s.output) : ∃ new, t.output = s.output ++ new := ⟨[], by simp [h]⟩
    cases i
    case rxSymbol b =>
      obtain ⟨u, f, r, hu, rfl⟩ := execRxSymbol_next h
      exact hu.syncStep.output_grew
    case syncMatch w =>
      obtain ⟨u, r, rfl | rfl, rfl⟩ := execSyncMatch_next h <;> exact unchanged rfl
    case bvAppend u v =>
      obtain rfl := answer_next.mp h
      exact unchanged (by cases u <;> rfl)
    case fragStart a time =>
      obtain rfl := answer_next.mp h
      exact fragStart_output_grew a time s
    case ioError =>
      obtain rfl := answer_next.mp h
      exact ⟨[.log .ioError], rfl⟩
    case stop | reset =>
      obtain rfl := answer_next.mp h
      exact unchanged rfl
    all_goals cases ho

/-- Settles O10: a step is an operation, on the state with its input taken, or does nothing to the streams. -/
theorem outputOnlyGrows : Obligations.OutputOnlyGrows := by
  intro s t h
  have grew {i : Instr} {u : State} (hx : exec i u = .next t) (hu : u.output = s.output) :
      ∃ new, t.output = s.output ++ new := hu ▸ exec_output_grew hx
  have same : ∃ new, s.output = s.output ++ new := ⟨[], (List.append_nil _).symm⟩
  rcases step_next h with ⟨_, _, _, _, _, ⟨_, _, rfl⟩ | ⟨_, hx⟩⟩ | ⟨_, _, hx⟩ | ⟨_, _, _, hx⟩ |
    ⟨_, _, _, _, _, hx⟩ | ⟨_, _, _, hx⟩ | ⟨_, _, rfl⟩
  · exact same
  · exact grew hx rfl
  · exact grew hx rfl
  · exact grew hx rfl
  · exact grew hx rfl
  · exact grew hx rfl
  · exact same

end Sys2Proof.Machine
end

section
/-! Who writes the time, the cell, the logical channel, the synchronizer and the control flag (family 10_state). -/

namespace Sys2Proof.Machine

/-! ### Operations that write neither the time, nor the cell, nor the logical channel -/

/-- The time, the whole cell and the logical channel are left as they were. -/
structure Quiet (s t : State) : Prop where
  time : t.time = s.time
  cell : t.cell = s.cell
  logicalChannel : t.mac.logicalChannel = s.mac.logicalChannel

theorem Quiet.refl (s : State) : Quiet s s := ⟨rfl, rfl, rfl⟩

theorem Quiet.trans {s t u : State} (h : Quiet s t) (h' : Quiet t u) : Quiet s u :=
  ⟨h'.time.trans h.time, h'.cell.trans h.cell, h'.logicalChannel.trans h.logicalChannel⟩

theorem Quiet.unitFrame {s t : State} (h : Quiet s t) : UnitFrame s t := .of_eq h.time h.cell h.logicalChannel

theorem quiet_log (s : State) (r : LogRecord) : Quiet s (s.log r) := ⟨rfl, rfl, rfl⟩

theorem quiet_emit (s : State) (ch : LogicalChannel) (v : Bits) : Quiet s (s.emit ch v) := ⟨by simp, by simp, by simp⟩

theorem quiet_setAddr (s : State) (x : MacAddress) : Quiet s (s.setAddr x) := ⟨rfl, rfl, rfl⟩

theorem quiet_setStolen (s : State) (x : Bool) : Quiet s (setStolen s x) := ⟨rfl, rfl, rfl⟩

theorem quiet_fragStop (s : State) : Quiet s (fragStop s) := ⟨rfl, rfl, rfl⟩

theorem quiet_fragStart (a : MacAddress) (t : TetraTime) (s : State) : Quiet s (fragStart a t s) :=
  have ⟨htime, hcell, hmac⟩ := fragStart_keeps a t s
  ⟨htime, hcell, by rw [hmac]⟩

theorem quiet_fragAppend (v : Bits) (a : MacAddress) (s : State) : Quiet s (fragAppend v a s) :=
  have ⟨htime, hcell, hmac⟩ := fragAppend_keeps v a s
  ⟨htime, hcell, by rw [hmac]⟩

theorem quiet_commitAddress (a : MacAddress) (enc : BitVec 2) (addrType : Nat) (s : State) :
    Quiet s (commitAddress a enc addrType s) :=
  have ⟨htime, hcell, hmac⟩ := commitAddress_keeps a enc addrType s
  ⟨htime, hcell, by rw [hmac]⟩

theorem quiet_writeVec (s : State) (v : VecOperand) (w : Bits) : Quiet s (writeVec s v w) := by
  cases v <;> exact ⟨rfl, rfl, rfl⟩

/-! ### The dissection units -/

/-- A read that does not raise, with the rest of the unit (45 R297). -/
theorem ok_of_bind {α β : Type} {x : Except OutOfRange α} {f : α → Except OutOfRange β} {b : β} (h : x >>= f = .ok b) :
    ∃ a, x = .ok a ∧ f a = .ok b := by
  cases x with
  | error e => cases h
  | ok a => exact ⟨a, rfl, h⟩

theorem quiet_commitLength (p : Bits) (ch : SigChannel) (li : BitVec 6) (pos : Nat) (s : State) :
    Quiet s (commitLength p ch li pos s).2 := by
  unfold commitLength
  split
  · exact (quiet_fragStart _ _ s).trans (quiet_fragAppend _ _ _)
  · split
    · exact quiet_log _ _
    · simp only
      split
      · exact (quiet_setStolen s _).trans (quiet_emit _ _ _)
      · exact quiet_emit _ _ _

theorem quiet_commitMacEnd (p : Bits) (ch : SigChannel) (pos : Nat) (s : State) : Quiet s (commitMacEnd p ch pos s) :=
  (quiet_fragAppend _ _ s).trans ((quiet_emit _ _ _).trans ((quiet_fragStop _).trans ⟨rfl, rfl, rfl⟩))

theorem quiet_dissectAach {a : Bits} {s t : State} (h : dissectAach a s = .ok t) : Quiet s t :=
  have ⟨htime, hcell, hchannel, _⟩ := dissectAach_frame h
  ⟨htime, hcell, hchannel⟩

theorem quiet_dissectMacResource {p : Bits} {ch : SigChannel} {s t : State} {r : UnitResult}
    (h : dissectMacResource p ch s = .ok (r, t)) : Quiet s t := by
  obtain ⟨header, _, h⟩ := ok_of_bind h
  cases header with
  | null p => cases h; exact .refl s
  | addressed p enc li addrType a pos =>
    obtain rfl := congrArg Prod.snd (Except.ok.inj h)
    exact (quiet_commitAddress a enc addrType s).trans (quiet_commitLength p ch li pos _)

theorem quiet_dissectMacFrag {p : Bits} {s t : State} {r : UnitResult} (h : dissectMacFrag p s = .ok (r, t)) :
    Quiet s t := by
  obtain ⟨fill, _, h⟩ := ok_of_bind h
  cases h
  exact quiet_fragAppend _ _ s

theorem quiet_dissectMacEnd {p : Bits} {ch : SigChannel} {s t : State} {r : UnitResult}
    (h : dissectMacEnd p ch s = .ok (r, t)) : Quiet s t := by
  obtain ⟨fill, _, h⟩ := ok_of_bind h
  obtain ⟨_, _, h⟩ := ok_of_bind h
  obtain ⟨li, _, h⟩ := ok_of_bind h
  split at h
  · cases h; exact quiet_log s _
  · obtain ⟨_, _, h⟩ := ok_of_bind h
    obtain ⟨pos, _, h⟩ := ok_of_bind h
    cases h
    exact quiet_commitMacEnd _ ch pos s

theorem quiet_dissectMacDBlck {p : Bits} {s t : State} {r : UnitResult} (h : dissectMacDBlck p s = .ok (r, t)) :
    Quiet s t := by
  obtain ⟨fill, _, h⟩ := ok_of_bind h
  obtain ⟨enc, _, h⟩ := ok_of_bind h
  obtain ⟨el, _, h⟩ := ok_of_bind h
  obtain ⟨_, _, h⟩ := ok_of_bind h
  obtain ⟨pos, _, h⟩ := ok_of_bind h
  cases h
  exact (quiet_setAddr s _).trans (quiet_emit _ _ _)

/-- Among the PDUs only a SYSINFO, type 10 and subtype 00, writes the cell (45 R281, R300). -/
theorem quiet_dissectOne {p : Bits} {ch : SigChannel} {s t : State} {r : UnitResult}
    (h : dissectOne p ch s = .ok (r, t)) : Quiet s t ∨ getValue p 0 2 = .ok 0b10 ∧ getValue p 2 2 = .ok 0b00 := by
  obtain ⟨type, htype, h⟩ := ok_of_bind h
  split at h
  · exact .inl (quiet_dissectMacResource h)
  · split at h
    · obtain ⟨sub, _, h⟩ := ok_of_bind h
      split at h
      · exact .inl (quiet_dissectMacFrag h)
      · exact .inl (quiet_dissectMacEnd h)
    · split at h
      · rename_i ht
        obtain ⟨sub, hsub, h⟩ := ok_of_bind h
        split at h
        · rename_i hs
          exact .inr ⟨ht ▸ htype, hs ▸ hsub⟩
        · split at h
          · cases h; exact .inl (.refl s)
          · cases h; exact .inl (quiet_log s _)
      · split at h
        · exact .inl (quiet_dissectMacDBlck h)
        · cases h; exact .inl (quiet_log s _)

/-- A BSCH leaves the frequency and the MAC state (45 R283). -/
theorem dissectBsch_keeps {b : Bits} {s t : State} (h : dissectBsch b s = .ok t) :
    t.cell.downlinkFreqHz = s.cell.downlinkFreqHz ∧ t.mac = s.mac := by
  unfold dissectBsch at h
  split at h
  · cases h; exact ⟨rfl, rfl⟩
  · obtain ⟨f, _, h⟩ := ok_of_bind h
    cases h
    simp only [commitBsch, timeSet]
    split <;> exact ⟨by simp, by simp⟩

/-- `TIME_SET` writes the time or the log alone (42 R201). -/
theorem timeSet_keeps (tnCode fn mn : Nat) (s : State) :
    (timeSet tnCode fn mn s).cell = s.cell ∧ (timeSet tnCode fn mn s).mac = s.mac := by
  unfold timeSet
  split <;> exact ⟨rfl, rfl⟩

/-! ### Units and rows as operations -/

theorem quiet_answer {s t u : State} {r : Result} (hu : Quiet s u) (h : answer u r = .next t) : Quiet s t := by
  obtain rfl := answer_next.mp h
  exact ⟨hu.time, hu.cell, hu.logicalChannel⟩

theorem quiet_inDomain {s t u : State} {r : Result} {ok : Bool} {name : String} (hu : Quiet s u)
    (h : inDomain ok name (answer u r) = .next t) : Quiet s t := quiet_answer hu (inDomain_next.mp h).2

theorem quiet_answerPlain {s t : State} {x : Except OutOfRange State} (hx : ∀ u, x = .ok u → Quiet s u)
    (h : answerPlain s x = .next t) : Quiet s t := by
  rcases answerPlain_next.mp h with ⟨u, hu, rfl⟩ | ⟨e, _, rfl⟩
  · exact quiet_answer (hx u hu) rfl
  · exact ⟨rfl, rfl, rfl⟩

theorem quiet_answerUnit {s t : State} {x : Except OutOfRange (UnitResult × State)}
    (hx : ∀ r u, x = .ok (r, u) → Quiet s u) (h : answerUnit s x = .next t) : Quiet s t := by
  rcases answerUnit_next.mp h with ⟨r, u, hu, rfl⟩ | ⟨e, _, rfl⟩
  · exact quiet_answer (hx r u hu) rfl
  · exact ⟨rfl, rfl, rfl⟩

/-- `DISSECT_BSCH` as an operation, abandoned or not. -/
theorem execDissectBsch_keeps {b : Bits} {s t : State} (h : exec (.dissectBsch b) s = .next t) :
    t.cell.downlinkFreqHz = s.cell.downlinkFreqHz ∧ t.mac = s.mac := by
  rcases answerPlain_next.mp h with ⟨u, hu, rfl⟩ | ⟨e, _, rfl⟩
  · have ⟨hfreq, hmac⟩ := dissectBsch_keeps hu
    exact ⟨hfreq, hmac⟩
  · exact ⟨rfl, rfl⟩

/-- A dissection unit as an operation, whatever unit it is, a SYSINFO included. -/
theorem unitFrame_answerUnit {s t : State} {x : Except OutOfRange (UnitResult × State)}
    (hx : ∀ r u, x = .ok (r, u) → UnitFrame s u) (h : answerUnit s x = .next t) : UnitFrame s t := by
  rcases answerUnit_next.mp h with ⟨r, u, hu, rfl⟩ | ⟨e, _, rfl⟩
  · exact (hx r u hu).trans (.of_eq rfl rfl rfl)
  · exact .of_eq rfl rfl rfl

theorem quiet_aachRow {header : BitVec 2} {field1 tail : BitVec 6} {s t : State}
    (h : aachRow header field1 tail s = .next t) : Quiet s t := quiet_answerPlain (fun _ => quiet_dissectAach) h

/-- A field that lies in the first of two vectors is read from it. -/
theorem getValue_append_left {u : Bits} (v : Bits) {pos n : Nat} (h : pos + n ≤ u.length) :
    getValue (u ++ v) pos n = getValue u pos n := by
  have hpos : pos ≤ u.length := by omega
  have hn : n ≤ (u.drop pos).length := by rw [List.length_drop]; omega
  have hnot : ¬ pos + n > u.length := by omega
  have hnot' : ¬ pos + n > (u ++ v).length := by rw [List.length_append]; omega
  rw [getValue, getValue, if_neg hnot, if_neg hnot', List.drop_append_of_le_length hpos, List.take_append_of_le_length hn]

/-- The type and the subtype of SYSINFO are those of its row (30 R101). -/
theorem sysinfo_code {code : BitVec 4} {rest : Bits} (htype : getValue (pduOf code rest) 0 2 = .ok 0b10)
    (hsub : getValue (pduOf code rest) 2 2 = .ok 0b00) : code = 0b1000#4 := by
  have hl : (bvToBits code).length = 4 := bvToBits_length code
  rw [pduOf, getValue_append_left rest (by omega)] at htype hsub
  clear hl
  revert code
  decide

theorem quiet_dissectRow {code : BitVec 4} {rest : Bits} {ch : SigChannel} {s t : State} (hc : code ≠ 0b1000#4)
    (h : dissectRow code rest ch s = .next t) : Quiet s t :=
  quiet_answerUnit (fun _ _ hu => (quiet_dissectOne hu).resolve_right fun hx => hc (sysinfo_code hx.1 hx.2)) h

theorem macResource_ne_sysinfo : ∀ lo : BitVec 2, 0b00#2 ++ lo ≠ 0b1000#4 := by decide

theorem macFrag_ne_sysinfo : ∀ lo : BitVec 1, 0b010#3 ++ lo ≠ 0b1000#4 := by decide

theorem macEnd_ne_sysinfo : ∀ lo : BitVec 1, 0b011#3 ++ lo ≠ 0b1000#4 := by decide

theorem reserved10x_ne_sysinfo : ∀ lo : BitVec 1, 0b101#3 ++ lo ≠ 0b1000#4 := by decide

theorem type11_ne_sysinfo : ∀ lo : BitVec 2, 0b11#2 ++ lo ≠ 0b1000#4 := by decide

theorem quiet_fecDecodeBlock (x : Bits) (key : BitVec 32) (size : BlockSize) (s : State) :
    Quiet s (fecDecodeBlock x key size s).2 := by
  simp only [fecDecodeBlock]
  split
  · exact .refl s
  · exact quiet_log s _

/-- The operations that neither run the lower MAC or the dissection of a whole block, nor dissect a BSCH or a SYSINFO, nor set the time, nor reset. -/
def quietOp : Instr → Bool
  | .rxSymbol _ | .processBurst _ | .timeInc | .timeSet .. | .lmacBurst .. | .lmacSb _ | .lmacNdb _ | .lmacNdbSf _
  | .umacDispatch .. | .dissectBsch _ | .dissectSysinfo .. | .dissociationLoop .. | .reset | .sysinfo ..
  | .burstSb .. | .burstNdb .. | .burstNdbSf .. => false
  | _ => true

theorem exec_quiet {i : Instr} {s t : State} (hi : quietOp i = true) (h : exec i s = .next t) : Quiet s t := by
  cases i
  case bvSize | bvExtract | bvFromOffset | bvResize | descramble | scrambleInit | decodeLength | stripFillBits
      | parseChanAlloc | fragGetSdu | inputUnpack | atNull | atSsi | atEventLabel | atUssi | atSmi | atSsiEventLabel
      | atSsiUsageMarker | atSmiEventLabel | liReserved0 | liOctets1 | liOctets2to3 | liOctets4to7 | liOctets8to15
      | liOctets16to17 | liOctets18 | liOctets19 | liOctets20to23 | liOctets24to31 | liOctets32to47 | liOctets48to55
      | liOctets56to57 | liOctets58 | liReserved59 | liReserved60to61 | liSecondHalfStolen | liStartFragmenting =>
    exact quiet_answer (.refl s) h
  case bvGetValue | hamming | deinterleave | depuncture23 | viterbiDecode | rmDecode | crc16Check | aachDecodeBlock
      | parseAddress =>
    exact quiet_inDomain (.refl s) h
  case aachFrame18 | aachHeader00 | aachUnallocated | aachAssigned | aachCommon | aachReserved | aachTraffic =>
    exact quiet_aachRow h
  case macResource lo _ _ => exact quiet_dissectRow (code := 0b00#2 ++ lo) (macResource_ne_sysinfo lo) h
  case macFrag lo _ _ => exact quiet_dissectRow (code := 0b010#3 ++ lo) (macFrag_ne_sysinfo lo) h
  case macEnd lo _ _ => exact quiet_dissectRow (code := 0b011#3 ++ lo) (macEnd_ne_sysinfo lo) h
  case accessDefine _ ch => exact quiet_dissectRow (code := 0b1001#4) (ch := ch) (by decide) h
  case reserved10x lo _ _ => exact quiet_dissectRow (code := 0b101#3 ++ lo) (reserved10x_ne_sysinfo lo) h
  case macDBlck lo _ => exact quiet_dissectRow (code := 0b11#2 ++ lo) (type11_ne_sysinfo lo) h
  case reserved11 lo _ _ => exact quiet_dissectRow (code := 0b11#2 ++ lo) (type11_ne_sysinfo lo) h
  case dissectAach => exact quiet_answerPlain (fun _ => quiet_dissectAach) h
  case dissectMacResource => exact quiet_answerUnit (fun _ _ => quiet_dissectMacResource) h
  case dissectMacFrag => exact quiet_answerUnit (fun _ _ => quiet_dissectMacFrag) h
  case dissectMacEnd => exact quiet_answerUnit (fun _ _ => quiet_dissectMacEnd) h
  case dissectMacDBlck => exact quiet_answerUnit (fun _ _ => quiet_dissectMacDBlck) h
  case dissectAccessDefine => exact quiet_answer (.refl s) h
  case ignoreReserved => exact quiet_answer (quiet_log s _) h
  case bvAppend => exact quiet_answer (quiet_writeVec s _ _) h
  case fecDecodeBlock => exact quiet_inDomain (quiet_fecDecodeBlock _ _ _ s) h
  case emitTchS => exact quiet_answer (quiet_emit s _ _) h
  case emit => exact quiet_answer (quiet_emit s _ _) h
  case fragStart => exact quiet_answer (quiet_fragStart _ _ s) h
  case fragAppend => exact quiet_answer (quiet_fragAppend _ _ s) h
  case fragStop => exact quiet_answer (quiet_fragStop s) h
  case stop => exact quiet_answer (u := stopBlock s) ⟨rfl, rfl, rfl⟩ h
  case ioError => exact quiet_answer (u := ioError s) ⟨rfl, rfl, rfl⟩ h
  case syncMatch =>
    obtain ⟨u, r, rfl | rfl, rfl⟩ := execSyncMatch_next h <;> exact ⟨rfl, rfl, rfl⟩
  all_goals cases hi

/-! ### The dissection of a block -/

/-- The channels whose blocks are not dissected by the loop, and not the BSCH: an AACH and a TCH_S, and those without a dissector (45 R280). -/
theorem quiet_umacDispatch {ch : LogicalChannel} (blk : Bits) (s : State)
    (hch : ch ∈ [LogicalChannel.aach, .tchS, .tch, .blch, .unknown]) : Quiet s (umacDispatch blk ch s) := by
  simp only [List.mem_cons, List.not_mem_nil, or_false] at hch
  rcases hch with rfl | rfl | rfl | rfl | rfl
  · rcases caught_cases s (dissectAach blk s) with ⟨u, hu, hc⟩ | ⟨e, _, hc⟩
    · simp only [umacDispatch, hc]; exact quiet_dissectAach hu
    · simp only [umacDispatch, hc]; exact quiet_log s _
  · exact quiet_emit s _ _
  · exact quiet_log s _
  · exact quiet_log s _
  · exact quiet_log s _

/-- Only a BSCH writes the time or the cell's identity (42 R202, 45 R283). -/
theorem umacDispatch_frame {ch : LogicalChannel} (blk : Bits) (s : State) (hch : ch ≠ .bsch) :
    UnitFrame s (umacDispatch blk ch s) := by
  cases ch
  case bsch => exact absurd rfl hch
  case schF | schHd | stch | bnch => exact dissociationLoop_frame blk _ s
  all_goals exact (quiet_umacDispatch blk s (by decide)).unitFrame

theorem umacDispatch_bsch_freq (blk : Bits) (s : State) :
    (umacDispatch blk .bsch s).cell.downlinkFreqHz = s.cell.downlinkFreqHz := by
  rcases caught_cases s (dissectBsch blk s) with ⟨u, hu, hc⟩ | ⟨e, _, hc⟩
  · simp only [umacDispatch, hc]; exact (dissectBsch_keeps hu).1
  · simp only [umacDispatch, hc]; rfl

/-! ### The lower MAC -/

/-- The time and the cell's identity and code are left: all that only a BSCH writes (42 R202). -/
structure IdentityFrame (s t : State) : Prop where
  time : t.time = s.time
  mcc : t.cell.mcc = s.cell.mcc
  mnc : t.cell.mnc = s.cell.mnc
  colourCode : t.cell.colourCode = s.cell.colourCode
  scramblingCode : t.cell.scramblingCode = s.cell.scramblingCode

theorem IdentityFrame.trans {s t u : State} (h : IdentityFrame s t) (h' : IdentityFrame t u) : IdentityFrame s u :=
  ⟨h'.time.trans h.time, h'.mcc.trans h.mcc, h'.mnc.trans h.mnc, h'.colourCode.trans h.colourCode,
    h'.scramblingCode.trans h.scramblingCode⟩

theorem UnitFrame.identityFrame {s t : State} (h : UnitFrame s t) : IdentityFrame s t :=
  ⟨h.time, h.mcc, h.mnc, h.colourCode, h.scramblingCode⟩

/-- The cell part of the frame, as the statement about the writers lists it. -/
theorem IdentityFrame.identity {s t : State} (h : IdentityFrame s t) :
    t.cell.mcc = s.cell.mcc ∧ t.cell.mnc = s.cell.mnc ∧ t.cell.colourCode = s.cell.colourCode ∧
      t.cell.scramblingCode = s.cell.scramblingCode := ⟨h.mcc, h.mnc, h.colourCode, h.scramblingCode⟩

theorem handoff_identity {ch : LogicalChannel} (blk : Bits) (s : State) (hch : ch ≠ .bsch) :
    IdentityFrame s (handoff blk ch s) :=
  have h := (umacDispatch_frame blk (s.setLogicalChannel ch) hch).identityFrame
  ⟨h.time, h.mcc, h.mnc, h.colourCode, h.scramblingCode⟩

theorem decodeAndHandoff_identity {ch : LogicalChannel} (x : Bits) (key : BitVec 32) (size : BlockSize) (s : State)
    (hch : ch ≠ .bsch) : IdentityFrame s (decodeAndHandoff x key size ch s) := by
  have hf := (quiet_fecDecodeBlock x key size s).unitFrame.identityFrame
  unfold decodeAndHandoff
  split
  · rename_i hd
    rw [hd] at hf
    exact hf.trans (handoff_identity _ _ hch)
  · rename_i hd
    rwa [hd] at hf

/-- An NDB carries an AACH, a TCH_S or an SCH_F (44 R242). -/
theorem lmacNdb_identity (w : Bits) (s : State) : IdentityFrame s (lmacNdb w s) := by
  refine IdentityFrame.trans (t := aachHandoff (ndbBbk w) s) (handoff_identity _ s (by decide)) ?_
  simp only [lmacNdb]
  split
  · exact handoff_identity _ _ (by decide)
  · exact decodeAndHandoff_identity _ _ _ _ (by decide)

theorem lmacBkn2_identity (w : Bits) (traffic : Bool) (s : State) : IdentityFrame s (lmacBkn2 w traffic s) := by
  unfold lmacBkn2
  split
  · exact (quiet_log s _).unitFrame.identityFrame
  · refine decodeAndHandoff_identity _ _ _ s ?_
    repeat' split
    all_goals decide

/-- An NDB_SF carries an AACH and two half slots, neither of them a BSCH (44 R244). -/
theorem lmacNdbSf_identity (w : Bits) (s : State) : IdentityFrame s (lmacNdbSf w s) := by
  have hch (traffic : Bool) : (if traffic then LogicalChannel.stch else .schHd) ≠ .bsch := by cases traffic <;> decide
  exact (handoff_identity _ s (by decide)).trans
    ((decodeAndHandoff_identity _ _ _ _ (hch _)).trans (lmacBkn2_identity w _ _))

/-- A burst of any class but SB (44 R240). -/
theorem lmacBurst_identity {type : BurstClass} (w : Bits) (s : State) (htype : type ≠ .sb) :
    IdentityFrame s (lmacBurst w type s) := by
  have hclear : IdentityFrame s (clearBurst s) := ⟨rfl, rfl, rfl, rfl, rfl⟩
  cases type with
  | sb => exact absurd rfl htype
  | ndb => exact hclear.trans (lmacNdb_identity w _)
  | ndbSf => exact hclear.trans (lmacNdbSf_identity w _)

/-! ### The writers, operation by operation -/

theorem identity_answer {s t u : State} {r : Result} (hu : IdentityFrame s u) (h : answer u r = .next t) :
    IdentityFrame s t := by
  obtain rfl := answer_next.mp h
  exact ⟨hu.time, hu.mcc, hu.mnc, hu.colourCode, hu.scramblingCode⟩

theorem identity_inDomain {s t u : State} {r : Result} {ok : Bool} {name : String} (hu : IdentityFrame s u)
    (h : inDomain ok name (answer u r) = .next t) : IdentityFrame s t := identity_answer hu (inDomain_next.mp h).2

/-- The quiet operations and those that may dissect a SYSINFO, but for the whole of `UMAC_DISPATCH`. -/
def unitOp : Instr → Bool
  | .dissectSysinfo .. | .dissociationLoop .. | .sysinfo .. => true
  | i => quietOp i

theorem exec_unitFrame {i : Instr} {s t : State} (hi : unitOp i = true) (h : exec i s = .next t) : UnitFrame s t := by
  cases hq : quietOp i with
  | true => exact (exec_quiet hq h).unitFrame
  | false =>
    cases i
    case dissectSysinfo => exact unitFrame_answerUnit (fun _ _ => dissectSysinfo_frame) h
    case sysinfo => exact unitFrame_answerUnit (fun _ _ => dissectOne_frame) h
    case dissociationLoop blk ch =>
      obtain rfl := answer_next.mp h
      exact (dissociationLoop_frame blk ch s).trans (.of_eq rfl rfl rfl)
    all_goals exact absurd (hi.symm.trans hq) (by decide)

/-- The operations that cannot dissect a BSCH, do not set the time and do not reset. -/
def identityOp : Instr → Bool
  | .timeInc | .timeSet .. | .rxSymbol _ | .processBurst _ | .lmacBurst _ .sb | .lmacSb _ | .umacDispatch _ .bsch
  | .dissectBsch _ | .burstSb .. | .burstNdb .. | .burstNdbSf .. | .reset => false
  | _ => true

theorem exec_identity {i : Instr} {s t : State} (hi : identityOp i = true) (h : exec i s = .next t) :
    IdentityFrame s t := by
  cases hu : unitOp i with
  | true => exact (exec_unitFrame hu h).identityFrame
  | false =>
    cases i
    case umacDispatch blk ch =>
      have hch : ch ≠ .bsch := by rintro rfl; cases hi
      exact identity_answer (umacDispatch_frame blk s hch).identityFrame h
    case lmacBurst w type =>
      have htype : type ≠ .sb := by rintro rfl; cases hi
      exact identity_inDomain (lmacBurst_identity w s htype) h
    case lmacNdb w => exact identity_inDomain (lmacNdb_identity w s) h
    case lmacNdbSf w => exact identity_inDomain (lmacNdbSf_identity w s) h
    all_goals first | (cases hi; done) | cases hu

theorem fragStart_outside (a : MacAddress) (t : TetraTime) (s : State) : OutsideMac s (fragStart a t s) := by
  simp only [fragStart]
  split <;> exact ⟨rfl, rfl, rfl, rfl, rfl, rfl, rfl, rfl⟩

/-- The operations that write the flags and the counter of the synchronizer: a symbol, a match, reset (10 R20, R21, R23). -/
def writesSync : Instr → Bool
  | .rxSymbol _ | .syncMatch _ | .reset => true
  | _ => false

theorem exec_syncFlags {i : Instr} {s t : State} (hi : writesSync i = false) (h : exec i s = .next t) :
    t.sync.synchronized = s.sync.synchronized ∧ t.sync.bitCounter = s.sync.bitCounter ∧
      t.sync.lossReported = s.sync.lossReported := by
  have same (hs : t.sync = s.sync) : t.sync.synchronized = s.sync.synchronized ∧
      t.sync.bitCounter = s.sync.bitCounter ∧ t.sync.lossReported = s.sync.lossReported := by simp [hs]
  cases ho : outsideMac i with
  | false =>
    obtain ⟨u, r, hm, rfl⟩ := exec_macStep ho h
    exact same hm.outside.sync
  | true =>
    cases i
    case bvAppend u v =>
      obtain rfl := answer_next.mp h
      cases u <;> exact ⟨rfl, rfl, rfl⟩
    case fragStart a time =>
      obtain rfl := answer_next.mp h
      exact same (fragStart_outside a time s).sync
    case stop | ioError =>
      obtain rfl := answer_next.mp h
      exact same rfl
    all_goals first | (cases hi; done) | cases ho

/-- The operations that write `Ctl.halted` (10 R37). -/
def writesHalted : Instr → Bool
  | .stop | .ioError | .reset => true
  | _ => false

theorem exec_halted {i : Instr} {s t : State} (hi : writesHalted i = false) (h : exec i s = .next t) :
    t.halted = s.halted := by
  cases ho : outsideMac i with
  | false =>
    obtain ⟨u, r, hm, rfl⟩ := exec_macStep ho h
    exact hm.outside.halted
  | true =>
    cases i
    case rxSymbol b =>
      obtain ⟨u, f, r, hu, rfl⟩ := execRxSymbol_next h
      exact hu.syncStep.outside.halted
    case syncMatch w =>
      obtain ⟨u, r, rfl | rfl, rfl⟩ := execSyncMatch_next h <;> rfl
    case bvAppend u v =>
      obtain rfl := answer_next.mp h
      cases u <;> rfl
    case fragStart a time =>
      obtain rfl := answer_next.mp h
      exact (fragStart_outside a time s).halted
    all_goals first | (cases hi; done) | cases ho

/-- Settles O12: in each part, the operations the statement leaves open, and for all the others the frame that says why they write nothing. -/
theorem stateWriters : Obligations.StateWriters := by
  refine ⟨fun i s t h => ?_, fun i s t h => ?_, fun i s t h => ⟨?_, ?_⟩⟩
  · cases i
    case lmacBurst w type => cases type <;> first | exact True.intro | exact (exec_identity rfl h).time
    case umacDispatch blk ch => cases ch <;> first | exact True.intro | exact (exec_identity rfl h).time
    all_goals first | exact True.intro | exact (exec_identity rfl h).time
  · cases i
    case dissectBsch b => exact (execDissectBsch_keeps h).1
    case umacDispatch blk ch =>
      cases ch
      case bsch => obtain rfl := answer_next.mp h; exact umacDispatch_bsch_freq blk s
      case aach | tchS | tch | blch | unknown => exact (quiet_answer (quiet_umacDispatch blk s (by decide)) h).cell
      all_goals exact (exec_identity rfl h).identity
    case lmacBurst w type => cases type <;> first | exact True.intro | exact (exec_identity rfl h).identity
    case dissectSysinfo | sysinfo | dissociationLoop | lmacNdb | lmacNdbSf => exact (exec_identity rfl h).identity
    case timeInc => obtain rfl := answer_next.mp h; rfl
    case timeSet tnCode fn mn => obtain rfl := answer_next.mp h; exact (timeSet_keeps _ _ _ s).1
    all_goals first | exact True.intro | exact (exec_quiet rfl h).cell
  · cases i <;> first | exact True.intro | exact exec_syncFlags rfl h
  · cases i <;> first | exact True.intro | exact exec_halted rfl h

/-- Settles O42: the dispatch leaves the channel that the hand-over wrote; the other operations are quiet, dissect single units, or write the time. -/
theorem handoffSetsChannel : Obligations.HandoffSetsChannel := by
  refine ⟨fun blk ch s => ⟨rfl, umacDispatch_logicalChannel blk ch (s.setLogicalChannel ch)⟩, fun i s t h => ?_⟩
  cases i
  case umacDispatch blk ch => obtain rfl := answer_next.mp h; exact umacDispatch_logicalChannel blk ch s
  case dissectBsch b => exact congrArg MacState.logicalChannel (execDissectBsch_keeps h).2
  case timeInc => obtain rfl := answer_next.mp h; rfl
  case timeSet tnCode fn mn =>
    obtain rfl := answer_next.mp h
    exact congrArg MacState.logicalChannel (timeSet_keeps _ _ _ s).2
  all_goals first | exact True.intro | exact (exec_unitFrame rfl h).logicalChannel

end Sys2Proof.Machine
end

section
/-! The words of the operation port (family 30_encoding): every word an operation is encoded with is read back whole, and every word that is read is an encoding. -/

namespace Sys2Proof

open Machine

/-! ### The selector rows by their codes -/

theorem extractLsb'_append_low {m k : Nat} {x : BitVec (m + k)} {hi : BitVec m} (h : x.extractLsb' k m = hi) :
    hi ++ x.extractLsb' 0 k = x := by
  subst h
  rw [BitVec.extractLsb'_append_extractLsb'_eq_extractLsb' (Nat.zero_add k).symm]
  exact BitVec.extractLsb'_eq_self

/-- A code that is none of the other rows' is of type 11 (30 R101). -/
theorem pduCode_type11 : ∀ code : BitVec 4,
    ¬ (code.extractLsb' 2 2 = 0b00#2 ∨ code.extractLsb' 1 3 = 0b010#3 ∨ code.extractLsb' 1 3 = 0b011#3 ∨ code = 0b1000#4 ∨
      code = 0b1001#4 ∨ code.extractLsb' 1 3 = 0b101#3) → code.extractLsb' 2 2 = 0b11#2 := by
  decide

/-- The PDU-type row of a code is encoded with that code (30 R101). -/
theorem encode_pduInstr (code : BitVec 4) (ch : SigChannel) (rest : Bits) :
    encode (pduInstr code ch rest) = putPdu code ch rest := by
  unfold pduInstr
  split_ifs with hresource hfrag hend hsysinfo haccess hreserved hschF
  · exact congrArg (putPdu · ch rest) (extractLsb'_append_low hresource)
  · exact congrArg (putPdu · ch rest) (extractLsb'_append_low hfrag)
  · exact congrArg (putPdu · ch rest) (extractLsb'_append_low hend)
  · rw [hsysinfo]; rfl
  · rw [haccess]; rfl
  · exact congrArg (putPdu · ch rest) (extractLsb'_append_low hreserved)
  · rw [hschF]
    exact congrArg (putPdu · .schF rest) (extractLsb'_append_low (pduCode_type11 code (by tauto)))
  · exact congrArg (putPdu · ch rest) (extractLsb'_append_low (pduCode_type11 code (by tauto)))

/-- The length-indication row of a code is encoded with that code (30 R102). -/
theorem encode_lengthIndicationInstr : ∀ code : BitVec 6, encode (lengthIndicationInstr code) = putLi code := by
  decide +kernel

/-- The AACH row of a header and a first field is encoded with both (30 R104). -/
theorem encode_aachInstr (frame18 : Bool) (header : BitVec 2) (field1 tail : BitVec 6) :
    encode (aachInstr frame18 header field1 tail) = putAach frame18 header field1 tail := by
  unfold aachInstr
  split_ifs <;> simp_all [encode]

theorem pduInstr_macResource (lo : BitVec 2) (ch : SigChannel) (rest : Bits) :
    pduInstr (0b00#2 ++ lo) ch rest = .macResource lo rest ch := by
  obtain ⟨lo⟩ := lo
  fin_cases lo <;> rfl

theorem pduInstr_macFrag (lo : BitVec 1) (ch : SigChannel) (rest : Bits) :
    pduInstr (0b010#3 ++ lo) ch rest = .macFrag lo rest ch := by
  obtain ⟨lo⟩ := lo
  fin_cases lo <;> rfl

theorem pduInstr_macEnd (lo : BitVec 1) (ch : SigChannel) (rest : Bits) :
    pduInstr (0b011#3 ++ lo) ch rest = .macEnd lo rest ch := by
  obtain ⟨lo⟩ := lo
  fin_cases lo <;> rfl

theorem pduInstr_reserved10x (lo : BitVec 1) (ch : SigChannel) (rest : Bits) :
    pduInstr (0b101#3 ++ lo) ch rest = .reserved10x lo rest ch := by
  obtain ⟨lo⟩ := lo
  fin_cases lo <;> rfl

/-- Of the two rows of type 11 the channel chooses (30 R101). -/
theorem pduInstr_type11 (lo : BitVec 2) (ch : SigChannel) (rest : Bits) :
    pduInstr (0b11#2 ++ lo) ch rest = if ch = .schF then .macDBlck lo rest else .reserved11 lo rest ch := by
  obtain ⟨lo⟩ := lo
  fin_cases lo <;> rfl

/-! ### Every encoding is read back -/

theorem reads_op {code : BitVec 8} {e : Bits} {i : Instr} (h : Reads (getOperation code.toNat) e i) :
    Reads ((getBv 3).bind getFormat) (op code ++ e) i := by
  rw [op, List.append_assoc]
  exact (reads_bv 0#3).bind ((reads_bv code).bind h)

/-- An operation without operands. -/
theorem reads_opOnly {code : BitVec 8} {i : Instr} (h : getOperation code.toNat = Get.value i) :
    Reads ((getBv 3).bind getFormat) (op code) i := by
  rw [← List.append_nil (op code)]
  exact reads_op (h ▸ reads_value i)

theorem reads_pdu {code : BitVec 4} {ch : SigChannel} {rest : Bits} {i : Instr} (hv : vecOk rest = true)
    (hi : pduInstr code ch rest = i) : Reads ((getBv 3).bind getFormat) (putPdu code ch rest) i := by
  subst hi
  simp only [putPdu, List.append_assoc]
  exact (reads_bv 3#3).bind ((reads_bv code).bind ((reads_sig ch).bind ((reads_vec hv).map _)))

theorem reads_li {code : BitVec 6} {i : Instr} (hi : lengthIndicationInstr code = i) :
    Reads ((getBv 3).bind getFormat) (putLi code) i := by
  subst hi
  exact (reads_bv 4#3).bind ((reads_bv code).map _)

theorem reads_at {code : BitVec 3} {p : Bits} {pos : Nat} {i : Instr}
    (h : Reads (getAddressType code) (putVec p ++ putNat pos) i) :
    Reads ((getBv 3).bind getFormat) (putAt code p pos) i := by
  simp only [putAt, List.append_assoc]
  exact (reads_bv 5#3).bind ((reads_bv code).bind h)

/-- The operands of an address-type row. -/
theorem reads_vecNat {p : Bits} {pos : Nat} (f : Bits → Nat → Instr) (h : vecOk p = true ∧ natOk pos = true) :
    Reads (getVec.bind fun p => getNat.map fun pos => f p pos) (putVec p ++ putNat pos) (f p pos) :=
  (reads_vec h.1).bind ((reads_nat h.2).map _)

theorem reads_aach {frame18 : Bool} {header : BitVec 2} {field1 tail : BitVec 6} {i : Instr}
    (hi : aachInstr frame18 header field1 tail = i) :
    Reads ((getBv 3).bind getFormat) (putAach frame18 header field1 tail) i := by
  subst hi
  simp only [putAach, List.append_assoc]
  exact (reads_bv 6#3).bind ((reads_bv header).bind ((reads_bv field1).bind ((reads_bool frame18).bind
    ((reads_bv tail).map _))))

/-- The two parts of a burst window around its training sequence. -/
theorem reads_headTail {m n : Nat} {head tail : Bits} (f : Bits → Bits → Instr) (hh : head.length = m)
    (ht : tail.length = n) :
    Reads ((getBits m).bind fun head => (getBits n).map fun tail => f head tail) (head ++ tail) (f head tail) :=
  (reads_bits hh).bind ((reads_bits ht).map _)

/-- The size an encoding takes from a block's length is the block's. -/
theorem blockK_sizeOfLength {n : Nat} (h : isBlockLength n = true) : blockK (sizeOfLength n) = n := by
  simp only [isBlockLength, Bool.or_eq_true, beq_iff_eq] at h
  obtain (rfl | rfl) | rfl := h <;> rfl

/-- And the size taken from a decoder input's length. -/
theorem blockK_sizeOfLength_symbols {n : Nat} (h : isSymbolLength n = true) :
    n = blockK (sizeOfLength (n / 8 * 3)) / 3 * 8 := by
  simp only [isSymbolLength, Bool.or_eq_true, beq_iff_eq] at h
  obtain (rfl | rfl) | rfl := h <;> rfl

theorem reads_symsOfLength {ys : List Sym} {n : Nat} (h : ys.length = n) : Reads (getSyms n) (putSyms ys) ys :=
  h ▸ reads_syms ys

/-- What the formats read from an operation's encoding is the operation: each row's reader takes the operands in the order in which the encoder puts them (log entry 2). -/
theorem reads_encode {i : Instr} (hw : i.wf = true) : Reads ((getBv 3).bind getFormat) (encode i) i := by
  cases i
  all_goals simp only [encode, List.append_assoc]
  all_goals simp only [Instr.wf, Bool.and_eq_true, decide_eq_true_eq, beq_iff_eq, bne_iff_ne, windowOk] at hw
  case rxSymbol b => exact reads_op ((reads_bool b).map _)
  case syncMatch | processBurst | lmacSb | lmacNdb | lmacNdbSf => exact reads_op ((reads_bits hw).map _)
  case bvSize => exact reads_op ((reads_operand hw).map _)
  case bvGetValue v pos n =>
    obtain ⟨⟨hv, hpos⟩, hn⟩ := hw
    have hread := (reads_bv (BitVec.ofNat 7 n)).map fun x => Instr.bvGetValue v pos x.toNat
    rw [BitVec.toNat_ofNat, Nat.mod_eq_of_lt (by omega)] at hread
    exact reads_op ((reads_operand hv).bind ((reads_nat hpos).bind hread))
  case bvExtract =>
    obtain ⟨⟨hv, hpos⟩, hn⟩ := hw
    exact reads_op ((reads_operand hv).bind ((reads_int hpos).bind ((reads_int hn).map _)))
  case bvAppend =>
    obtain ⟨hu, hv⟩ := hw
    exact reads_op ((reads_operand hu).bind ((reads_operand hv).map _))
  case bvFromOffset =>
    obtain ⟨⟨hv, hoffset⟩, hlen⟩ := hw
    exact reads_op ((reads_operand hv).bind ((reads_nat hoffset).bind ((reads_optInt hlen).map _)))
  case bvResize =>
    obtain ⟨hv, hn⟩ := hw
    exact reads_op ((reads_operand hv).bind ((reads_nat hn).map _))
  case hamming =>
    obtain ⟨⟨ha, hb⟩, _⟩ := hw
    exact reads_op ((reads_operand ha).bind ((reads_operand hb).map _))
  case descramble => exact reads_op ((reads_vec hw).bind ((reads_bv _).map _))
  case deinterleave => exact reads_op ((reads_size _).bind ((reads_bits hw).map _))
  case depuncture23 => exact reads_op ((reads_size _).bind ((reads_bits (blockK_sizeOfLength hw).symm).map _))
  case viterbiDecode =>
    exact reads_op ((reads_size _).bind ((reads_symsOfLength (blockK_sizeOfLength_symbols hw)).map _))
  case rmDecode => exact reads_op ((reads_bits hw).map _)
  case crc16Check =>
    obtain ⟨hlen, hnat⟩ := hw
    exact reads_op ((reads_nat hnat).bind ((reads_bits (by omega)).map _))
  case timeInc | fragStop | stop | ioError | reset => exact reads_opOnly rfl
  case timeSet | scrambleInit => exact reads_op ((reads_bv _).bind ((reads_bv _).bind ((reads_bv _).map _)))
  case lmacBurst => exact reads_op ((reads_bits hw).bind ((reads_class _).map _))
  case fecDecodeBlock => exact reads_op ((reads_size _).bind ((reads_bits hw).bind ((reads_bv _).map _)))
  case aachDecodeBlock => exact reads_op ((reads_bits hw).bind ((reads_bv _).map _))
  case umacDispatch | emit => exact reads_op ((reads_channel _).bind ((reads_vec hw).map _))
  case dissectAach | dissectBsch | stripFillBits | dissectMacDBlck | emitTchS => exact reads_op ((reads_vec hw).map _)
  case dissectSysinfo | dissectMacResource | dissectMacFrag | dissectMacEnd | dissectAccessDefine | dissociationLoop =>
    exact reads_op ((reads_sig _).bind ((reads_vec hw).map _))
  case decodeLength | inputUnpack => exact reads_op ((reads_bv _).map _)
  case parseAddress p pos addrType =>
    obtain ⟨⟨hp, hpos⟩, _⟩ := hw
    have hread := (reads_bv (addrType - 1)).map fun t => Instr.parseAddress p pos (t + 1)
    rw [BitVec.sub_add_cancel] at hread
    exact reads_op ((reads_vec hp).bind ((reads_nat hpos).bind hread))
  case parseChanAlloc => exact reads_op (reads_vecNat _ hw)
  case ignoreReserved => exact reads_op ((reads_why _).bind ((reads_sig _).bind ((reads_vec hw).map _)))
  case fragStart => exact reads_op ((reads_address _).bind ((reads_time hw).map _))
  case fragAppend => exact reads_op ((reads_address _).bind ((reads_vec hw).map _))
  case fragGetSdu => exact reads_op ((reads_address _).map _)
  case macResource => exact reads_pdu hw (pduInstr_macResource ..)
  case macFrag => exact reads_pdu hw (pduInstr_macFrag ..)
  case macEnd => exact reads_pdu hw (pduInstr_macEnd ..)
  case sysinfo | accessDefine => exact reads_pdu hw rfl
  case reserved10x => exact reads_pdu hw (pduInstr_reserved10x ..)
  case macDBlck => exact reads_pdu hw (pduInstr_type11 ..)
  case reserved11 => exact reads_pdu hw.1 ((pduInstr_type11 ..).trans (if_neg hw.2))
  case liReserved0 | liOctets1 | liOctets18 | liOctets19 | liOctets58 | liReserved59 | liSecondHalfStolen
      | liStartFragmenting => exact reads_li rfl
  case liOctets2to3 lo | liOctets16to17 lo | liOctets56to57 lo | liReserved60to61 lo | liOctets4to7 lo | liOctets20to23 lo
      | liOctets8to15 lo | liOctets24to31 lo | liOctets48to55 lo | liOctets32to47 lo =>
    exact reads_li (by revert lo; decide)
  case atNull => exact (reads_bv 5#3).bind ((reads_bv 0#3).bind ((reads_vec hw).map _))
  case atSsi | atEventLabel | atUssi | atSmi | atSsiEventLabel | atSsiUsageMarker | atSmiEventLabel =>
    exact reads_at (reads_vecNat _ hw)
  case aachFrame18 | aachHeader00 => exact reads_aach rfl
  case aachUnallocated | aachAssigned | aachCommon | aachReserved => exact reads_aach (by simpa [aachInstr] using hw)
  case aachTraffic header field1 tail =>
    obtain ⟨hheader, hfield⟩ := hw
    have hne : ∀ n < 4, field1 ≠ BitVec.ofNat 6 n := by
      rintro n hn rfl
      rw [BitVec.toNat_ofNat] at hfield
      omega
    exact reads_aach (by simpa [aachInstr, hne 0, hne 1, hne 2, hne 3] using hheader)
  case burstSb =>
    exact (reads_bv 1#3).bind ((reads_bv Params.default.tsSync).bind (reads_headTail _ hw.1 hw.2))
  case burstNdb =>
    exact (reads_bv 2#3).bind ((reads_bv Params.default.tsN1).bind (reads_headTail _ hw.1 hw.2))
  case burstNdbSf =>
    exact (reads_bv 2#3).bind ((reads_bv Params.default.tsN2).bind (reads_headTail _ hw.1 hw.2))

/-- Settles O1: the formats read the encoding whole and leave the padding, which the decoder accepts. -/
theorem decodeOfEncode : Obligations.DecodeOfEncode := fun _ hw k => decode_of_reads (reads_encode hw) hw k

/-! ### Every word that is read is an encoding -/

/-- Whatever `g` reads, it reads off bits in front that have `P` with it, and it leaves the bits behind them. -/
def ReadsOnly {α : Type} (g : Get α) (P : Bits → α → Prop) : Prop :=
  ∀ v a rest, g v = .ok (a, rest) → ∃ e, v = e ++ rest ∧ P e a

/-- Whatever `g` reads, it reads off exactly the bits that `put` writes for it. -/
def Inverts {α : Type} (g : Get α) (put : α → Bits) : Prop := ReadsOnly g fun e a => e = put a

theorem readsOnly_value {α : Type} {P : Bits → α → Prop} {a : α} (h : P [] a) : ReadsOnly (Get.value a) P := by
  rintro v _ _ ⟨⟩
  exact ⟨[], rfl, h⟩

theorem readsOnly_fail {α : Type} {P : Bits → α → Prop} {e : DecodeError} : ReadsOnly (Get.fail e) P := by
  rintro v a rest ⟨⟩

theorem ReadsOnly.bind {α β : Type} {g : Get α} {f : α → Get β} {P : Bits → α → Prop} {Q : Bits → β → Prop}
    (hg : ReadsOnly g P) (hf : ∀ e a, P e a → ReadsOnly (f a) fun e' b => Q (e ++ e') b) : ReadsOnly (g.bind f) Q := by
  intro v b rest h
  simp only [Get.bind] at h
  split at h
  · cases h
  · next a w hgv =>
    obtain ⟨e, rfl, he⟩ := hg v a w hgv
    obtain ⟨e', rfl, hq⟩ := hf e a he w b rest h
    exact ⟨e ++ e', (List.append_assoc ..).symm, hq⟩

theorem ReadsOnly.map {α β : Type} {g : Get α} {f : α → β} {P : Bits → α → Prop} {Q : Bits → β → Prop}
    (hg : ReadsOnly g P) (hf : ∀ e a, P e a → Q e (f a)) : ReadsOnly (g.map f) Q :=
  hg.bind fun e a h => readsOnly_value (by simpa using hf e a h)

theorem ReadsOnly.mono {α : Type} {g : Get α} {P Q : Bits → α → Prop} (hg : ReadsOnly g P) (h : ∀ e a, P e a → Q e a) :
    ReadsOnly g Q := fun v a rest hv =>
  let ⟨e, he, hp⟩ := hg v a rest hv
  ⟨e, he, h e a hp⟩

theorem Inverts.bind {α β : Type} {g : Get α} {f : α → Get β} {put : α → Bits} {Q : Bits → β → Prop}
    (hg : Inverts g put) (hf : ∀ a, ReadsOnly (f a) fun e b => Q (put a ++ e) b) : ReadsOnly (g.bind f) Q :=
  ReadsOnly.bind hg fun _ a h => h ▸ hf a

theorem Inverts.map {α β : Type} {g : Get α} {f : α → β} {put : α → Bits} {Q : Bits → β → Prop}
    (hg : Inverts g put) (hf : ∀ a, Q (put a) (f a)) : ReadsOnly (g.map f) Q :=
  ReadsOnly.map hg fun _ a h => h ▸ hf a

theorem Inverts.choose {α β : Type} {g : Get α} {f : α → Option β} {put : α → Bits} {Q : Bits → β → Prop}
    (hg : Inverts g put) (hf : ∀ a b, f a = some b → Q (put a) b) : ReadsOnly (g.choose f) Q := by
  refine hg.bind fun a => ?_
  split
  · next b hb => exact readsOnly_value (by simpa using hf a b hb)
  · exact readsOnly_fail

/-- Two vectors of one length and one value are the same (00 R10). -/
theorem eq_of_bitsToNat_eq {u : Bits} : ∀ {v : Bits}, u.length = v.length → bitsToNat u = bitsToNat v → u = v := by
  induction u with
  | nil => intro v hl _; exact (List.length_eq_zero_iff.mp hl.symm).symm
  | cons a u ih =>
    rintro (_ | ⟨b, v⟩) hl hv
    · cases hl
    · have hl' : u.length = v.length := Nat.succ.inj hl
      have hu := bitsToNat_lt u
      have hv' := bitsToNat_lt v
      rw [bitsToNat_cons, bitsToNat_cons] at hv
      rw [hl'] at hu hv
      have hab : a = b := by cases a <;> cases b <;> simp at hv ⊢ <;> omega
      subst hab
      rw [ih hl' (Nat.add_left_cancel hv)]

/-- A vector is its value written in as many bits (00 R10). -/
theorem natToBits_bitsToNat (v : Bits) : natToBits v.length (bitsToNat v) = v :=
  eq_of_bitsToNat_eq (natToBits_length ..) (by rw [bitsToNat_natToBits, Nat.mod_eq_of_lt (bitsToNat_lt v)])

theorem readsOnly_bits (n : Nat) : ReadsOnly (getBits n) fun e v => e = v ∧ v.length = n := by
  intro v a rest h
  simp only [getBits] at h
  split at h
  · cases h
  · next hn =>
    cases h
    exact ⟨v.take n, (List.take_append_drop n v).symm, rfl, by rw [List.length_take]; omega⟩

theorem inverts_bits (n : Nat) : Inverts (getBits n) id := (readsOnly_bits n).mono fun _ _ h => h.1

theorem inverts_bv (k : Nat) : Inverts (getBv k) bvToBits :=
  (readsOnly_bits k).map fun e v ⟨he, hl⟩ => by
    have hlt := bitsToNat_lt v
    subst he hl
    rw [bvToBits, BitVec.toNat_ofNat, Nat.mod_eq_of_lt hlt, natToBits_bitsToNat]

theorem inverts_nat : Inverts getNat putNat :=
  (inverts_bv 16).map fun x => by rw [putNat, BitVec.ofNat_toNat, BitVec.setWidth_eq]

theorem inverts_int : Inverts getInt putInt := (inverts_bv 16).map fun x => by rw [putInt, BitVec.ofInt_toInt]

theorem inverts_vec : Inverts getVec putVec :=
  inverts_nat.bind fun n => (readsOnly_bits n).mono fun e v ⟨he, hl⟩ => by rw [putVec, he, hl]

theorem inverts_bool : Inverts getBool putBool := (inverts_bv 1).map (by decide)

theorem inverts_window : Inverts getWindow id := inverts_bits 510

theorem inverts_size : Inverts getSize putSize := (inverts_bv 2).choose (fun a b => by revert a; cases b <;> decide)
theorem inverts_class : Inverts getClass putClass := (inverts_bv 2).choose (fun a b => by revert a; cases b <;> decide)
theorem inverts_channel : Inverts getChannel putChannel := (inverts_bv 4).choose (fun a b => by revert a; cases b <;> decide)
theorem inverts_sig : Inverts getSig putSig := (inverts_bv 2).map (by decide)


theorem readsOnly_syms : ∀ n, ReadsOnly (getSyms n) fun e ys => e = putSyms ys ∧ ys.length = n
  | 0 => readsOnly_value ⟨rfl, rfl⟩
  | n + 1 => by
    have hsym : Inverts ((getBv 2).choose symOfCode) fun y => bvToBits (symCode y) :=
      (inverts_bv 2).choose fun a b => by revert a; cases b <;> decide
    exact hsym.bind fun y => (readsOnly_syms n).map fun e ys ⟨he, hl⟩ => ⟨by rw [he]; rfl, congrArg (· + 1) hl⟩

theorem inverts_operand : Inverts getOperand putOperand :=
  (inverts_bv 2).bind fun t => by
    split
    · exact inverts_vec.map fun _ => rfl
    · exact readsOnly_value rfl
    · exact readsOnly_value rfl
    · exact readsOnly_fail

theorem inverts_address : Inverts getAddress putAddress :=
  (inverts_bv 3).bind fun _ => (inverts_bv 24).bind fun _ => (inverts_bv 24).bind fun _ => (inverts_bv 24).bind fun _ =>
    (inverts_bv 10).bind fun _ => (inverts_bv 6).bind fun _ => (inverts_bv 2).map fun _ => by
      simp only [putAddress, List.append_assoc]

theorem inverts_time : Inverts getTime putTime :=
  (inverts_bv 2).bind fun _ => (inverts_bv 5).bind fun _ => (inverts_bv 6).map fun _ => by
    simp only [putTime, Nat.add_sub_cancel, BitVec.ofNat_toNat, BitVec.setWidth_eq, List.append_assoc]

theorem inverts_optInt : Inverts getOptInt putOptInt :=
  inverts_bool.bind fun b => by
    cases b with
    | false => exact readsOnly_value rfl
    | true => exact inverts_int.map fun _ => rfl

theorem inverts_why : Inverts getWhy putWhy :=
  inverts_bool.bind fun b => by
    cases b with
    | false => exact (inverts_bv 2).bind fun _ => (inverts_bv 2).map fun _ => (List.append_assoc ..).symm
    | true => exact (inverts_bv 2).bind fun _ => inverts_sig.map fun _ => (List.append_assoc ..).symm

/-- A block's size is the size its length gives. -/
theorem sizeOfLength_blockK (size : BlockSize) : sizeOfLength (blockK size) = size := by cases size <;> rfl

theorem sizeOfLength_symbols (size : BlockSize) : sizeOfLength (blockK size / 3 * 8 / 8 * 3) = size := by
  cases size <;> rfl

/-- Two operands behind the bits `c`; how many bits the second has may rest on the first. -/
theorem readsOnly_two {α β : Type} {g : Get α} {g' : α → Get β} {put : α → Bits} {put' : β → Bits} {c : Bits}
    {f : α → β → Instr} (hg : Inverts g put) (hg' : ∀ a, Inverts (g' a) put')
    (h : ∀ a b, c ++ put a ++ put' b = encode (f a b)) :
    ReadsOnly (g.bind fun a => (g' a).map (f a)) fun e i => c ++ e = encode i :=
  hg.bind fun a => (hg' a).map fun b => (List.append_assoc ..).symm.trans (h a b)

theorem readsOnly_three {α β γ : Type} {g : Get α} {g' : α → Get β} {g'' : Get γ} {put : α → Bits} {put' : β → Bits}
    {put'' : γ → Bits} {c : Bits} {f : α → β → γ → Instr} (hg : Inverts g put) (hg' : ∀ a, Inverts (g' a) put')
    (hg'' : Inverts g'' put'') (h : ∀ a b x, c ++ put a ++ put' b ++ put'' x = encode (f a b x)) :
    ReadsOnly (g.bind fun a => (g' a).bind fun b => g''.map (f a b)) fun e i => c ++ e = encode i :=
  hg.bind fun a => (readsOnly_two (hg' a) (fun _ => hg'') (h a)).mono fun _ _ he => (List.append_assoc ..).symm.trans he

/-- What an operation's reader takes from behind the identifier is what its encoding puts there. -/
theorem readsOnly_operation (n : Nat) :
    ReadsOnly (getOperation n) fun e i => op (BitVec.ofNat 8 n) ++ e = encode i := by
  unfold getOperation
  split
  -- burst synchronizer (43)
  · exact inverts_bool.map fun _ => rfl
  · exact inverts_window.map fun _ => rfl
  · exact inverts_window.map fun _ => rfl
  -- bit vector (40)
  · exact inverts_operand.map fun _ => rfl
  · exact readsOnly_three inverts_operand (fun _ => inverts_nat) (inverts_bv 7) fun v pos n => by
      simp only [encode, BitVec.ofNat_toNat, BitVec.setWidth_eq]
      rfl
  · exact readsOnly_three inverts_operand (fun _ => inverts_int) inverts_int fun _ _ _ => rfl
  · exact readsOnly_two inverts_operand (fun _ => inverts_operand) fun _ _ => rfl
  · exact readsOnly_three inverts_operand (fun _ => inverts_nat) inverts_optInt fun _ _ _ => rfl
  · exact readsOnly_two inverts_operand (fun _ => inverts_nat) fun _ _ => rfl
  · exact readsOnly_two inverts_operand (fun _ => inverts_operand) fun _ _ => rfl
  -- block codes (41)
  · exact readsOnly_two inverts_vec (fun _ => inverts_bv 32) fun _ _ => rfl
  · exact readsOnly_two inverts_size (fun _ => inverts_bits _) fun _ _ => rfl
  · exact inverts_size.bind fun size => (readsOnly_bits _).map fun e x ⟨he, hl⟩ => by
      rw [encode, he, hl, sizeOfLength_blockK, List.append_assoc]
      rfl
  · exact inverts_size.bind fun size => (readsOnly_syms _).map fun e y ⟨he, hl⟩ => by
      rw [encode, he, hl, sizeOfLength_symbols, List.append_assoc]
      rfl
  · exact (inverts_bits _).map fun _ => rfl
  · exact inverts_nat.bind fun n => (readsOnly_bits _).map fun e b ⟨he, hl⟩ => by
      rw [encode, he, hl, Nat.add_sub_cancel, List.append_assoc]
      rfl
  -- cell and time (42)
  · exact readsOnly_value (List.append_nil _)
  · exact readsOnly_three (inverts_bv 2) (fun _ => inverts_bv 5) (inverts_bv 6) fun _ _ _ => rfl
  · exact readsOnly_three (inverts_bv 10) (fun _ => inverts_bv 14) (inverts_bv 6) fun _ _ _ => rfl
  -- lower MAC (44)
  · exact readsOnly_two inverts_window (fun _ => inverts_class) fun _ _ => rfl
  · exact inverts_window.map fun _ => rfl
  · exact inverts_window.map fun _ => rfl
  · exact inverts_window.map fun _ => rfl
  · exact readsOnly_three inverts_size (fun _ => inverts_bits _) (inverts_bv 32) fun _ _ _ => rfl
  · exact readsOnly_two (inverts_bits _) (fun _ => inverts_bv 32) fun _ _ => rfl
  -- upper MAC (45)
  · exact readsOnly_two inverts_channel (fun _ => inverts_vec) fun _ _ => rfl
  · exact inverts_vec.map fun _ => rfl
  · exact inverts_vec.map fun _ => rfl
  · exact readsOnly_two inverts_sig (fun _ => inverts_vec) fun _ _ => rfl
  · exact (inverts_bv 6).map fun _ => rfl
  · exact readsOnly_two inverts_sig (fun _ => inverts_vec) fun _ _ => rfl
  · exact inverts_vec.map fun _ => rfl
  · exact readsOnly_three inverts_vec (fun _ => inverts_nat) (inverts_bv 3) fun p pos t => by
      rw [encode, BitVec.add_sub_cancel]
      rfl
  · exact readsOnly_two inverts_vec (fun _ => inverts_nat) fun _ _ => rfl
  · exact readsOnly_two inverts_sig (fun _ => inverts_vec) fun _ _ => rfl
  · exact readsOnly_two inverts_sig (fun _ => inverts_vec) fun _ _ => rfl
  · exact inverts_vec.map fun _ => rfl
  · exact readsOnly_two inverts_sig (fun _ => inverts_vec) fun _ _ => rfl
  · exact readsOnly_two inverts_sig (fun _ => inverts_vec) fun _ _ => rfl
  · exact inverts_vec.map fun _ => rfl
  · exact readsOnly_three inverts_why (fun _ => inverts_sig) inverts_vec fun _ _ _ => rfl
  -- defragmenter (46)
  · exact readsOnly_two inverts_address (fun _ => inverts_time) fun _ _ => rfl
  · exact readsOnly_two inverts_address (fun _ => inverts_vec) fun _ _ => rfl
  · exact inverts_address.map fun _ => rfl
  · exact readsOnly_value (List.append_nil _)
  -- interfaces (47)
  · exact (inverts_bv 8).map fun _ => rfl
  · exact readsOnly_two inverts_channel (fun _ => inverts_vec) fun _ _ => rfl
  · exact readsOnly_value (List.append_nil _)
  · exact readsOnly_value (List.append_nil _)
  · exact readsOnly_value (List.append_nil _)
  -- no other identifier
  · exact readsOnly_fail

theorem readsOnly_addressType (code : BitVec 3) :
    ReadsOnly (getAddressType code) fun e i => bvToBits 5#3 ++ bvToBits code ++ e = encode i := by
  obtain ⟨code⟩ := code
  fin_cases code
  · exact inverts_vec.map fun _ => rfl
  all_goals
    refine readsOnly_two inverts_vec (fun _ => inverts_nat) fun _ _ => ?_
    rfl

theorem readsOnly_burst38 (code : BitVec 38) :
    ReadsOnly (getBurst38 code) fun e i => bvToBits 1#3 ++ bvToBits code ++ e = encode i := by
  unfold getBurst38
  split_ifs with h
  · subst h
    exact readsOnly_two (inverts_bits 214) (fun _ => inverts_bits 258) fun _ _ => rfl
  · exact readsOnly_fail

theorem readsOnly_burst22 (code : BitVec 22) :
    ReadsOnly (getBurst22 code) fun e i => bvToBits 2#3 ++ bvToBits code ++ e = encode i := by
  unfold getBurst22
  split_ifs with h1 h2
  · subst h1
    exact readsOnly_two (inverts_bits 244) (fun _ => inverts_bits 244) fun _ _ => rfl
  · subst h2
    exact readsOnly_two (inverts_bits 244) (fun _ => inverts_bits 244) fun _ _ => rfl
  · exact readsOnly_fail

/-- What a format's reader takes from behind the tag is what the encoding of the row it answers puts there. -/
theorem readsOnly_format (tag : BitVec 3) :
    ReadsOnly (getFormat tag) fun e i => bvToBits tag ++ e = encode i := by
  unfold getFormat
  split
  · refine (inverts_bv 8).bind fun code => (readsOnly_operation code.toNat).mono fun e i h => ?_
    rw [← h, op, BitVec.ofNat_toNat, BitVec.setWidth_eq, List.append_assoc]
  · exact (inverts_bv 38).bind fun code => (readsOnly_burst38 code).mono fun _ _ h => (List.append_assoc ..).symm.trans h
  · exact (inverts_bv 22).bind fun code => (readsOnly_burst22 code).mono fun _ _ h => (List.append_assoc ..).symm.trans h
  · exact (inverts_bv 4).bind fun _ => inverts_sig.bind fun _ => inverts_vec.map fun _ => by
      rw [encode_pduInstr, putPdu]
      simp only [List.append_assoc]
  · exact (inverts_bv 6).map fun _ => (encode_lengthIndicationInstr _).symm
  · exact (inverts_bv 3).bind fun code => (readsOnly_addressType code).mono fun _ _ h => (List.append_assoc ..).symm.trans h
  · exact (inverts_bv 2).bind fun _ => (inverts_bv 6).bind fun _ => inverts_bool.bind fun _ => (inverts_bv 6).map fun _ => by
      rw [encode_aachInstr, putAach]
      simp only [List.append_assoc]
  · exact readsOnly_fail

/-- Bits of which none is set are padding. -/
theorem eq_replicate_of_not_any {rest : Bits} (h : ¬ rest.any id = true) : rest = List.replicate rest.length false :=
  List.eq_replicate_of_mem fun b hb => by
    cases b
    · rfl
    · exact absurd (List.any_eq_true.mpr ⟨true, hb, rfl⟩) h

/-- A decoded word is what the formats read, and padding behind it. -/
theorem decode_ok {w : Bits} {i : Instr} (h : decode w = .ok i) :
    ∃ k, ((getBv 3).bind getFormat) w = .ok (i, List.replicate k false) := by
  simp only [decode] at h
  split at h
  · cases h
  · next j rest hread =>
    split_ifs at h with hany hwf
    cases h
    exact ⟨rest.length, by rw [hread, ← eq_replicate_of_not_any hany]⟩

/-- Settles O2: the formats' readers take nothing but the encoding of what they answer. -/
theorem decodedWordIsEncoding : Obligations.DecodedWordIsEncoding := by
  intro w i h
  obtain ⟨k, hread⟩ := decode_ok h
  have hformat : ReadsOnly ((getBv 3).bind getFormat) fun e i => e = encode i :=
    (inverts_bv 3).bind fun tag => readsOnly_format tag
  obtain ⟨e, rfl, rfl⟩ := hformat w i _ hread
  exact ⟨decode_wf h, k, rfl⟩

/-! ### The opcode table's own numbering -/

/-- Settles O3: each word tried before the one that decodes is refused. -/
theorem tableWordsDecode : Obligations.TableWordsDecode := by
  unfold Obligations.TableWordsDecode
  decide +kernel

end Sys2Proof
end

section
/-! What the operations of the field encodings answer (family 30_encoding): every well-formed operation goes on; the burst-class, AACH, length-indication and address-type rows; the fields of an address and of a channel allocation. -/

namespace Sys2Proof.Machine

/-! ### Every well-formed operation goes on -/

theorem inDomain_goesOn {ok : Bool} (name : String) (s : State) (r : Result) (h : ok = true) :
    ∃ t, inDomain ok name (answer s r) = .next t := ⟨_, inDomain_next.mpr ⟨h, rfl⟩⟩

/-- A unit that raises goes on too: it is abandoned (45 R297, 60 R404). -/
theorem answerUnit_goesOn (s : State) (x : Except OutOfRange (UnitResult × State)) : ∃ t, answerUnit s x = .next t := by
  rcases x with e | ⟨r, u⟩ <;> exact ⟨_, rfl⟩

theorem answerPlain_goesOn (s : State) (x : Except OutOfRange State) : ∃ t, answerPlain s x = .next t := by
  rcases x with e | u <;> exact ⟨_, rfl⟩

theorem dissectRow_goesOn (code : BitVec 4) (rest : Bits) (ch : SigChannel) (s : State) :
    ∃ t, dissectRow code rest ch s = .next t := answerUnit_goesOn ..

theorem aachRow_goesOn (header : BitVec 2) (field1 tail : BitVec 6) (s : State) :
    ∃ t, aachRow header field1 tail s = .next t := answerPlain_goesOn ..

/-- A burst-class row's window is as long as its head, its training sequence and its tail. -/
theorem rowWindow_length {k m n : Nat} {head tail : Bits} (ts : BitVec k) (hh : head.length = m) (ht : tail.length = n)
    (hl : m + k + n = burstLen) : (head ++ bvToBits ts ++ tail).length = burstLen := by
  rw [List.length_append, List.length_append, bvToBits_length, hh, ht, hl]

theorem burstRow_goesOn {k m n : Nat} {head tail : Bits} (row : String) (ts : BitVec k) (s : State) (hh : head.length = m)
    (ht : tail.length = n) (hl : m + k + n = burstLen) : ∃ t, burstRow row m head (bvToBits ts) tail s = .next t :=
  inDomain_goesOn row _ _ (Bool.and_eq_true_iff.mpr ⟨beq_iff_eq.mpr hh, beq_iff_eq.mpr (rowWindow_length ts hh ht hl)⟩)

/-- Settles O9: an operation has no domain and answers, or runs a unit, or has a domain that its well-formedness puts it in; of two stored vectors alone the premise has to say that they are of one length. -/
theorem wellFormedOperationsGoOn : Obligations.WellFormedOperationsGoOn := by
  intro i s hw hhamming
  cases i
  case syncMatch | processBurst | lmacBurst | lmacSb | lmacNdb | lmacNdbSf | deinterleave | depuncture23 | viterbiDecode | rmDecode
      | fecDecodeBlock | aachDecodeBlock => exact inDomain_goesOn _ _ _ hw
  case bvGetValue v pos n => exact inDomain_goesOn _ _ _ (Bool.and_eq_true_iff.mp hw).2
  case hamming a b => exact inDomain_goesOn _ _ _ (beq_iff_eq.mpr (hhamming a b rfl))
  case crc16Check b => exact inDomain_goesOn _ _ _ (Bool.and_eq_true_iff.mp hw).1
  case parseAddress p pos addrType =>
    exact inDomain_goesOn _ _ _ (decide_eq_true (bne_iff_ne.mp (Bool.and_eq_true_iff.mp hw).2))
  case burstSb | burstNdb | burstNdbSf =>
    simp only [Instr.wf, Bool.and_eq_true, beq_iff_eq] at hw
    exact burstRow_goesOn _ _ s hw.1 hw.2 rfl
  case dissectSysinfo | dissectMacResource | dissectMacFrag | dissectMacEnd | dissectMacDBlck => exact answerUnit_goesOn ..
  case macResource | macFrag | macEnd | sysinfo | reserved10x | macDBlck | reserved11 =>
    exact dissectRow_goesOn ..
  case accessDefine rest ch => exact dissectRow_goesOn 0b1001#4 rest ch s
  case dissectAach | dissectBsch => exact answerPlain_goesOn ..
  case aachFrame18 | aachHeader00 | aachUnallocated | aachAssigned | aachCommon | aachReserved | aachTraffic =>
    exact aachRow_goesOn ..
  all_goals exact ⟨_, rfl⟩

/-! ### Burst classes -/

/-- Vectors of one length are at distance 0 exactly where they are the same (40 R146). -/
theorem hamming_eq_zero_iff {u : Bits} : ∀ {v : Bits}, u.length = v.length → (hamming u v = 0 ↔ u = v) := by
  induction u with
  | nil => intro v hl; simp [hamming, List.length_eq_zero_iff.mp hl.symm]
  | cons a u ih =>
    rintro (_ | ⟨b, v⟩) hl
    · cases hl
    · simp [hamming, ih (Nat.succ.inj hl)]

theorem bvToBits_injective {k : Nat} {x y : BitVec k} (h : bvToBits x = bvToBits y) : x = y :=
  BitVec.eq_of_toNat_eq (by rw [← bitsToNat_bvToBits x, h, bitsToNat_bvToBits])

theorem slice_length (v : Bits) {a b : Nat} (hb : b ≤ v.length) : (v.slice a b).length = b - a := by
  rw [Bits.slice, List.length_take, List.length_drop]
  omega

/-- The part of a vector between a head and a tail. -/
theorem slice_middle {head : Bits} (u tail : Bits) {a b : Nat} (ha : head.length = a) (hb : a + u.length = b) :
    (head ++ u ++ tail).slice a b = u := by
  subst ha hb
  simp [Bits.slice, List.append_assoc]

/-- A window is at distance 0 from a training sequence exactly where it has it in its place (43 R225). -/
theorem dSync_eq_zero_iff {p : Params} {w : Bits} (hl : w.length = burstLen) :
    dSync p w = 0 ↔ w.slice 214 252 = bvToBits p.tsSync :=
  hamming_eq_zero_iff (by rw [slice_length w (by rw [hl]; decide), bvToBits_length])

theorem dN1_eq_zero_iff {p : Params} {w : Bits} (hl : w.length = burstLen) :
    dN1 p w = 0 ↔ w.slice 244 266 = bvToBits p.tsN1 :=
  hamming_eq_zero_iff (by rw [slice_length w (by rw [hl]; decide), bvToBits_length])

theorem dN2_eq_zero_iff {p : Params} {w : Bits} (hl : w.length = burstLen) :
    dN2 p w = 0 ↔ w.slice 244 266 = bvToBits p.tsN2 :=
  hamming_eq_zero_iff (by rw [slice_length w (by rw [hl]; decide), bvToBits_length])

/-- The order of the classes, at distance 0 (43 R225, 30 R100). -/
theorem burstClass_sb {p : Params} {w : Bits} (h0 : dSync p w = 0) : dMin p w = 0 ∧ burstClass p w = .sb := by
  have hmin : dMin p w = 0 := by rw [dMin, h0, Nat.zero_min]
  exact ⟨hmin, by rw [burstClass, hmin, if_pos h0]⟩

theorem burstClass_ndb {p : Params} {w : Bits} (h0 : dSync p w ≠ 0) (h1 : dN1 p w = 0) :
    dMin p w = 0 ∧ burstClass p w = .ndb := by
  have hmin : dMin p w = 0 := by rw [dMin, h1, Nat.zero_min, Nat.min_zero]
  exact ⟨hmin, by rw [burstClass, hmin, if_neg h0, if_pos h1]⟩

theorem burstClass_ndbSf {p : Params} {w : Bits} (h0 : dSync p w ≠ 0) (h1 : dN1 p w ≠ 0) (h2 : dN2 p w = 0) :
    dMin p w = 0 ∧ burstClass p w = .ndbSf := by
  have hmin : dMin p w = 0 := by rw [dMin, h2, Nat.min_zero, Nat.min_zero]
  exact ⟨hmin, by rw [burstClass, hmin, if_neg h0, if_neg h1]⟩

/-- A window at distance 0 from a training sequence is processed as a burst of its class (43 R225). -/
theorem processBurst_of_dMin_eq_zero {w : Bits} {s : State} (h : dMin s.params w = 0) :
    processBurst w s =
      lmacBurst w (burstClass s.params w) (s.setBurst { s.burst with type := burstClass s.params w }) := by
  rw [processBurst, if_neg (by omega)]

/-- A burst-class row, on a window at distance 0 from a training sequence. -/
theorem burstRow_class {w head ts tail : Bits} {m : Nat} {s : State} {c : BurstClass} (row : String)
    (hw : head ++ ts ++ tail = w) (hh : head.length = m) (hl : w.length = burstLen)
    (hclass : dMin s.params w = 0 ∧ burstClass s.params w = c) :
    ∃ t, exec (.lmacBurst w c) (s.setBurst { s.burst with type := c }) = .next t ∧ burstRow row m head ts tail s = .next t := by
  obtain ⟨hmin, rfl⟩ := hclass
  subst hw
  refine ⟨_, inDomain_next.mpr ⟨beq_iff_eq.mpr hl, rfl⟩, inDomain_next.mpr ⟨?_, ?_⟩⟩
  · exact Bool.and_eq_true_iff.mpr ⟨beq_iff_eq.mpr hh, beq_iff_eq.mpr hl⟩
  · rw [processBurst_of_dMin_eq_zero hmin]
    rfl

/-- Settles O21: the row's own sequence is in its place, and no sequence earlier in the order is. -/
theorem burstClassRows : Obligations.BurstClassRows := by
  intro head tail s
  refine ⟨fun hh ht => ?sb, fun hh ht hsync => ?ndb, fun hh ht hne hsync => ?ndbSf⟩
  case sb =>
    have hl := rowWindow_length s.params.tsSync hh ht rfl
    have h0 := (dSync_eq_zero_iff hl).mpr (slice_middle _ tail hh (by rw [bvToBits_length]))
    exact burstRow_class "BURST_SB" rfl hh hl (burstClass_sb h0)
  case ndb =>
    have hl := rowWindow_length s.params.tsN1 hh ht rfl
    have h1 := (dN1_eq_zero_iff hl).mpr (slice_middle _ tail hh (by rw [bvToBits_length]))
    exact burstRow_class "BURST_NDB" rfl hh hl (burstClass_ndb (mt (dSync_eq_zero_iff hl).mp hsync) h1)
  case ndbSf =>
    have hl := rowWindow_length s.params.tsN2 hh ht rfl
    have hslice := slice_middle (bvToBits s.params.tsN2) tail (b := 266) hh (by rw [bvToBits_length])
    have h1 : dN1 s.params (head ++ bvToBits s.params.tsN2 ++ tail) ≠ 0 := fun h =>
      hne (bvToBits_injective (hslice.symm.trans ((dN1_eq_zero_iff hl).mp h))).symm
    have h2 := (dN2_eq_zero_iff hl).mpr hslice
    exact burstRow_class "BURST_NDB_SF" rfl hh hl (burstClass_ndbSf (mt (dSync_eq_zero_iff hl).mp hsync) h1 h2)

/-! ### Length indications -/

/-- `DECODE_LENGTH` gives 0 for the four reserved codes, else the code's own value (45 R285). -/
theorem decodeLength_eq (li : BitVec 6) :
    decodeLength li = if li.toNat = 0 ∨ li.toNat = 59 ∨ li.toNat = 60 ∨ li.toNat = 61 then 0 else li.toNat := by
  unfold decodeLength
  simp only [← BitVec.toNat_inj]
  split_ifs <;> grind

/-- A length-indication row, by what `DECODE_LENGTH` gives for its code. -/
theorem lengthRow_next {li : BitVec 6} {n : Nat} (s : State) (h : decodeLength li = n) :
    lengthRow li s = .next (s.returns (.number n)) := h ▸ rfl

/-- Settles O47: each row's code, and what `DECODE_LENGTH` gives for it. -/
theorem lengthIndications : Obligations.LengthIndications := by
  intro s
  refine ⟨fun li => lengthRow_next s (decodeLength_eq li), fun i n hi => ?_, fun lo => ⟨?_, ?_, ?_, ?_⟩, fun lo => ⟨?_, ?_⟩,
    fun lo => ⟨?_, ?_, ?_⟩, fun lo => ?_⟩
  · simp only [List.mem_cons, List.not_mem_nil, Prod.mk.injEq, or_false] at hi
    rcases hi with ⟨rfl, rfl⟩ | ⟨rfl, rfl⟩ | ⟨rfl, rfl⟩ | ⟨rfl, rfl⟩ | ⟨rfl, rfl⟩ | ⟨rfl, rfl⟩ | ⟨rfl, rfl⟩ | ⟨rfl, rfl⟩ <;>
      exact lengthRow_next s rfl
  all_goals exact lengthRow_next s (by revert lo; decide)

/-! ### Fields at a position -/

/-- The bits `e` stand in `p` from position `pos` on. -/
def StandsAt (p : Bits) (pos : Nat) (e : Bits) : Prop := ∃ pre post, p = pre ++ e ++ post ∧ pre.length = pos

theorem standsAt_middle (pre e post : Bits) : StandsAt (pre ++ e ++ post) pre.length e := ⟨pre, post, rfl, rfl⟩

/-- Of two fields one after the other, each stands in its place. -/
theorem StandsAt.split {p u v : Bits} {pos : Nat} (h : StandsAt p pos (u ++ v)) :
    StandsAt p pos u ∧ StandsAt p (pos + u.length) v := by
  obtain ⟨pre, post, rfl, rfl⟩ := h
  exact ⟨⟨pre, v ++ post, by simp only [List.append_assoc], rfl⟩,
    ⟨pre ++ u, post, by simp only [List.append_assoc], List.length_append⟩⟩

/-- A field is read where it stands, most significant bit first (40 R141). -/
theorem StandsAt.getValue_eq {p e : Bits} {pos n : Nat} (h : StandsAt p pos e) (hn : e.length = n) :
    getValue p pos n = .ok (bitsToNat e) := by
  obtain ⟨pre, post, rfl, rfl⟩ := h
  subst hn
  rcases getValue_cases (pre ++ e ++ post) pre.length e.length with ⟨hlt, _⟩ | ⟨_, hok⟩
  · simp only [List.length_append] at hlt
    omega
  · rw [hok, slice_middle e post rfl rfl]

/-- A field of a word's width. -/
theorem StandsAt.getValue_bv_eq {p : Bits} {pos k : Nat} {x : BitVec k} (h : StandsAt p pos (bvToBits x)) :
    getValue p pos k = .ok x.toNat := by
  rw [h.getValue_eq (bvToBits_length x), bitsToNat_bvToBits]

theorem ok_bind {α β : Type} (a : α) (f : α → Except OutOfRange β) : (Except.ok a >>= f) = f a := rfl

theorem pure_eq_ok {α : Type} (a : α) : (pure a : Except OutOfRange α) = .ok a := rfl

/-- A field that is read and discarded (45 R298). -/
theorem StandsAt.consume_eq {p e : Bits} {pos n : Nat} (h : StandsAt p pos e) (hn : e.length = n) :
    consume p pos n = .ok (pos + n) := by
  rw [consume, h.getValue_eq hn, ok_bind, pure_eq_ok]

/-- Fields that are read and discarded one after another (45 R298). -/
theorem StandsAt.consumeAll_eq {p : Bits} {ns : List Nat} : ∀ {e : Bits} {pos : Nat}, StandsAt p pos e → e.length = ns.sum →
    consumeAll p pos ns = .ok (pos + ns.sum) := by
  induction ns with
  | nil => intro e pos _ _; rfl
  | cons n ns ih =>
    intro e pos h hl
    rw [List.sum_cons] at hl ⊢
    have hn : (e.take n).length = n := by rw [List.length_take]; omega
    rw [← List.take_append_drop n e] at h
    obtain ⟨hfirst, hrest⟩ := h.split
    rw [hn] at hrest
    rw [consumeAll, hfirst.consume_eq hn, ok_bind, ih hrest (by rw [List.length_drop]; omega), Nat.add_assoc]

/-- A field read where the format carries it (45 R288). -/
theorem StandsAt.readIf_eq {p : Bits} {pos k : Nat} {x : BitVec k} (h : StandsAt p pos (bvToBits x)) :
    readIf true p pos k = .ok (x.toNat, pos + k) := by
  rw [readIf, if_pos rfl, h.getValue_bv_eq, ok_bind, pure_eq_ok]

/-- And left out where the format does not carry it. -/
theorem readIf_absent (p : Bits) (pos n : Nat) : readIf false p pos n = .ok (0, pos) := rfl

/-- A flag and, where it is 1, the bits `v` behind it (30 R89, R91). -/
theorem StandsAt.flag_cases {p e v : Bits} {pos : Nat} (h : StandsAt p pos e) (he : e ∈ [[false], true :: v]) :
    (getValue p pos 1 = .ok 0 ∧ e.length = 1) ∨
      (getValue p pos 1 = .ok 1 ∧ StandsAt p (pos + 1) v ∧ e.length = 1 + v.length) := by
  simp only [List.mem_cons, List.not_mem_nil, or_false] at he
  obtain rfl | rfl := he
  · exact .inl ⟨h.getValue_eq rfl, rfl⟩
  · obtain ⟨hflag, hrest⟩ := StandsAt.split (u := [true]) h
    exact .inr ⟨hflag.getValue_eq rfl, hrest, Nat.add_comm ..⟩

/-- A flag, the fields that are discarded where it is 1, and what is read behind them (30 R91). -/
theorem StandsAt.flagged_bind {α : Type} {p e v : Bits} {pos : Nat} {ns : List Nat} (h : StandsAt p pos e)
    (he : e ∈ [[false], true :: v]) (hv : v.length = ns.sum) (k : Nat → Except OutOfRange α) :
    (do
      let f ← getValue p pos 1
      if f = 1 then consumeAll p (pos + 1) ns >>= k else pure (pos + 1) >>= k) = k (pos + e.length) := by
  rcases h.flag_cases he with ⟨hf, hl⟩ | ⟨hf, hrest, hl⟩
  · rw [hf, ok_bind, if_neg (by decide), pure_eq_ok, ok_bind, hl]
  · rw [hf, ok_bind, if_pos rfl, hrest.consumeAll_eq hv, ok_bind, hl, hv, Nat.add_assoc]

/-- An optional field, and the position after it (30 R89). -/
theorem StandsAt.consumeOptional_eq {p e v : Bits} {pos n : Nat} (h : StandsAt p pos e) (he : e ∈ [[false], true :: v])
    (hv : v.length = n) : consumeOptional p pos n = .ok (pos + e.length) := by
  rw [consumeOptional]
  rcases h.flag_cases he with ⟨hf, hl⟩ | ⟨hf, hrest, hl⟩
  · rw [hf, ok_bind, if_neg (by decide), pure_eq_ok, hl]
  · rw [hf, ok_bind, if_pos rfl, hrest.consume_eq hv, hl, hv, Nat.add_assoc]

/-- A field that is there where a condition holds, the condition as it is read, and what is read behind it. -/
theorem StandsAt.consume_if_bind {α : Type} {p e : Bits} {pos n : Nat} {c d : Prop} [Decidable c] [Decidable d]
    (h : StandsAt p pos (if d then e else [])) (hn : e.length = n) (hcd : c ↔ d) (k : Nat → Except OutOfRange α) :
    (if c then consume p pos n >>= k else pure pos >>= k) = k (pos + (if d then e else []).length) := by
  by_cases hd : d
  · rw [if_pos hd] at h ⊢
    rw [if_pos (hcd.mpr hd), h.consume_eq hn, ok_bind, hn]
  · rw [if_neg hd, if_neg (mt hcd.mp hd)]
    rfl

/-! ### Address fields -/

/-- The fields an address type carries, in order, and the address they make (30 R90). -/
inductive AddressLayout : BitVec 3 → Bits → MacAddress → Prop where
  | ssi (x : BitVec 24) : AddressLayout 1 (bvToBits x) ⟨1, x, 0, 0, 0, 0, 0⟩
  | eventLabel (y : BitVec 10) : AddressLayout 2 (bvToBits y) ⟨2, 0, 0, 0, y, 0, 0⟩
  | ussi (x : BitVec 24) : AddressLayout 3 (bvToBits x) ⟨3, 0, x, 0, 0, 0, 0⟩
  | smi (x : BitVec 24) : AddressLayout 4 (bvToBits x) ⟨4, 0, 0, x, 0, 0, 0⟩
  | ssiEventLabel (x : BitVec 24) (y : BitVec 10) : AddressLayout 5 (bvToBits x ++ bvToBits y) ⟨5, x, 0, 0, y, 0, 0⟩
  | ssiUsageMarker (x : BitVec 24) (y : BitVec 6) : AddressLayout 6 (bvToBits x ++ bvToBits y) ⟨6, x, 0, 0, 0, y, 0⟩
  | smiEventLabel (x : BitVec 24) (y : BitVec 10) : AddressLayout 7 (bvToBits x ++ bvToBits y) ⟨7, 0, 0, x, y, 0, 0⟩

theorem AddressLayout.type_ne_zero {ty : BitVec 3} {e : Bits} {a : MacAddress} (hl : AddressLayout ty e a) : ty ≠ 0 := by
  cases hl <;> decide

/-- An address is read from its fields where they stand (45 R288). -/
theorem AddressLayout.parseAddress_eq {ty : BitVec 3} {e p : Bits} {a : MacAddress} {pos : Nat}
    (hl : AddressLayout ty e a) (h : StandsAt p pos e) : parseAddress p pos ty.toNat = .ok (a, pos + e.length) := by
  cases hl with
  | ssi | eventLabel | ussi | smi => simp [parseAddress, readIf_absent, h.readIf_eq, ok_bind, pure_eq_ok, mkAddress]
  | ssiEventLabel | ssiUsageMarker | smiEventLabel =>
    obtain ⟨hfirst, hsecond⟩ := h.split
    rw [bvToBits_length] at hsecond
    simp [parseAddress, readIf_absent, hfirst.readIf_eq, hsecond.readIf_eq, ok_bind, pure_eq_ok, mkAddress, Nat.add_assoc]

/-- `PARSE_ADDRESS` and the row of an address type both return what the fields of the type read as (45 R288). -/
theorem AddressLayout.exec_next {ty : BitVec 3} {row : Bits → Nat → Instr} {p e : Bits} {pos : Nat} {a : MacAddress} {s : State}
    (hl : AddressLayout ty e a) (h : StandsAt p pos e) (hrow : exec (row p pos) s = addressRow ty.toNat p pos s) :
    exec (.parseAddress p pos ty) s = .next (s.returns (.address a (pos + e.length))) ∧
      exec (row p pos) s = .next (s.returns (.address a (pos + e.length))) := by
  have hresult : addressRow ty.toNat p pos s = .next (s.returns (.address a (pos + e.length))) := by
    rw [addressRow, hl.parseAddress_eq h]
    rfl
  exact ⟨inDomain_next.mpr ⟨decide_eq_true hl.type_ne_zero, hresult⟩, hrow.trans hresult⟩

/-- Settles O49: each type by its layout. -/
theorem addressFields : Obligations.AddressFields := by
  intro pre post ssi ussi smi el um s k hk
  simp only [List.mem_cons, List.not_mem_nil, or_false] at hk
  obtain rfl | rfl | rfl | rfl | rfl | rfl | rfl := hk
  · exact (AddressLayout.ssi ssi).exec_next (standsAt_middle ..) rfl
  · exact (AddressLayout.eventLabel el).exec_next (standsAt_middle ..) rfl
  · exact (AddressLayout.ussi ussi).exec_next (standsAt_middle ..) rfl
  · exact (AddressLayout.smi smi).exec_next (standsAt_middle ..) rfl
  · exact (AddressLayout.ssiEventLabel ssi el).exec_next (standsAt_middle ..) rfl
  · exact (AddressLayout.ssiUsageMarker ssi um).exec_next (standsAt_middle ..) rfl
  · exact (AddressLayout.smiEventLabel smi el).exec_next (standsAt_middle ..) rfl

/-! ### The AACH usage map -/

/-- The two fields of an AACH block are read; the outcome of the usage map is written and the block is emitted (45 R282). -/
theorem dissectAach_aachBlock (header : BitVec 2) (field1 tail : BitVec 6) (s : State) :
    dissectAach (aachBlock header field1 tail) s =
      .ok ((setUsage s (aachUsage s.time.fn header.toNat field1.toNat)).emit .aach (aachBlock header field1 tail)) := by
  have hblock : StandsAt (aachBlock header field1 tail) 0 (bvToBits header ++ (bvToBits field1 ++ bvToBits tail)) :=
    ⟨[], [], by simp [aachBlock], rfl⟩
  obtain ⟨hheader, hrest⟩ := hblock.split
  rw [bvToBits_length] at hrest
  have hfield1 : getValue (aachBlock header field1 tail) 2 6 = .ok field1.toNat := hrest.split.1.getValue_bv_eq
  rw [dissectAach, hheader.getValue_bv_eq, ok_bind, hfield1, ok_bind, pure_eq_ok]

/-- An AACH row, given the outcome of the usage map. -/
theorem aachRow_next {header : BitVec 2} {field1 tail : BitVec 6} {s : State} {usage : DownlinkUsage}
    {marker : Option (BitVec 6)} (h : aachUsage s.time.fn header.toNat field1.toNat = (usage, marker)) :
    aachRow header field1 tail s = .next (((s.setMac { s.mac with
      downlinkUsage := usage, downlinkUsageMarker := marker.getD s.mac.downlinkUsageMarker }).push
        (.emission ⟨.aach, aachBlock header field1 tail, s.addr, s.time⟩)).returns .none) := by
  rw [aachRow, dissectAach_aachBlock, h]
  rfl

/-- `DISSECT_AACH` on a block is the row of its header and first field. -/
theorem exec_dissectAach (header : BitVec 2) (field1 tail : BitVec 6) (s : State) :
    exec (.dissectAach (bvToBits header ++ bvToBits field1 ++ bvToBits tail)) s = aachRow header field1 tail s := rfl

/-- A first field of 4 and more is traffic, and the marker (30 R104). -/
theorem aachUsage_traffic {fn header : Nat} {field1 : BitVec 6} (hfn : fn ≠ 18) (hheader : header ≠ 0)
    (hfield : 4 ≤ field1.toNat) : aachUsage fn header field1.toNat = (.traffic, some field1) := by
  have hne : ∀ n < 4, field1.toNat ≠ n := fun n hn => by omega
  simp [aachUsage, hfn, hheader, hne 0, hne 1, hne 2, hne 3]

/-- Settles O44: in each case the map's outcome, and the operation and the row dissect the same block. -/
theorem aachUsageMap : Obligations.AachUsageMap := by
  intro header field1 tail s
  have hboth {usage : DownlinkUsage} (marker : Option (BitVec 6)) {i : Instr}
      (h : aachUsage s.time.fn header.toNat field1.toNat = (usage, marker)) (hi : exec i s = aachRow header field1 tail s) :=
    And.intro ((exec_dissectAach header field1 tail s).trans (aachRow_next h)) (hi.trans (aachRow_next h))
  have hnz (hheader : header ≠ 0) : header.toNat ≠ 0 := fun h => hheader (BitVec.eq_of_toNat_eq h)
  refine ⟨fun hfn => ?frame18, fun hfn hheader => ?header00, fun hfn hheader hfield => ?unallocated,
    fun hfn hheader hfield => ?assigned, fun hfn hheader hfield => ?common, fun hfn hheader hfield => ?reserved,
    fun hfn hheader hfield => ?traffic⟩
  case frame18 => exact hboth none (by simp [aachUsage, hfn]) rfl
  case header00 => exact hboth none (by simp [aachUsage, hfn, hheader]) (by rw [hheader]; rfl)
  case traffic => exact hboth (some field1) (aachUsage_traffic hfn (hnz hheader) hfield) rfl
  all_goals exact hboth none (by simp [aachUsage, hfn, hnz hheader, hfield]) (by rw [hfield]; rfl)

/-! ### The channel allocation -/

/-- The augmented element, field by field (30 R92). -/
theorem parseAugmented_eq {p x26 x11 x4 v16 w16 opt1 opt2 last : Bits} {nap : BitVec 2} {pos : Nat}
    (h : StandsAt p pos (x26 ++ bvToBits nap ++ (if nap = 1 then x11 else []) ++ x4 ++ opt1 ++ opt2 ++ last))
    (h26 : x26.length = 26) (h11 : x11.length = 11) (h4 : x4.length = 4) (hlast : last.length = 1)
    (hopt1 : opt1 ∈ [[false], true :: v16]) (hv : v16.length = 16) (hopt2 : opt2 ∈ [[false], true :: w16])
    (hw : w16.length = 16) :
    parseAugmented p pos = .ok (pos +
      (x26 ++ bvToBits nap ++ (if nap = 1 then x11 else []) ++ x4 ++ opt1 ++ opt2 ++ last).length) := by
  simp only [List.append_assoc] at h
  obtain ⟨hx26, h⟩ := h.split
  obtain ⟨hnap, h⟩ := h.split
  obtain ⟨hx11, h⟩ := h.split
  obtain ⟨hx4, h⟩ := h.split
  obtain ⟨ho1, h⟩ := h.split
  obtain ⟨ho2, hl⟩ := h.split
  simp only [h26, bvToBits_length, h4] at hnap hx11 hx4 ho1 ho2 hl
  have hcond : nap.toNat = 0b01 ↔ nap = 1 := BitVec.toNat_inj (y := 1)
  have hall : consumeAll p pos [2, 3, 3, 3, 3, 3, 4, 5] = .ok (pos + 26) := hx26.consumeAll_eq h26
  rw [parseAugmented, hall, ok_bind, hnap.getValue_bv_eq, ok_bind]
  refine (hx11.consume_if_bind h11 hcond _).trans ?_
  beta_reduce
  rw [hx4.consume_eq h4, ok_bind, ho1.consumeOptional_eq hopt1 hv, ok_bind, ho2.consumeOptional_eq hopt2 hw, ok_bind,
    hl.consume_eq hlast]
  simp only [List.length_append, h26, bvToBits_length, h4, hlast, Nat.add_assoc]

/-- The element, field by field; `augmented` is what `parseAugmented` passes over (30 R91). -/
theorem parseChanAlloc_eq {p x14 ext v f18 augmented : Bits} {alloc : BitVec 6} {ulDl mon : BitVec 2} {fn pos : Nat}
    (h : StandsAt p pos (bvToBits alloc ++ bvToBits ulDl ++ x14 ++ ext ++ bvToBits mon ++
      (if mon = 0 ∧ fn = 18 then f18 else []) ++ (if ulDl = 0 then augmented else [])))
    (h14 : x14.length = 14) (hext : ext ∈ [[false], true :: v]) (hv : v.length = 10) (h18 : f18.length = 2)
    (haug : ∀ q, StandsAt p q augmented → parseAugmented p q = .ok (q + augmented.length)) :
    parseChanAlloc fn p pos = .ok (pos + (bvToBits alloc ++ bvToBits ulDl ++ x14 ++ ext ++ bvToBits mon ++
      (if mon = 0 ∧ fn = 18 then f18 else []) ++ (if ulDl = 0 then augmented else [])).length) := by
  simp only [List.append_assoc] at h
  obtain ⟨halloc, h⟩ := h.split
  obtain ⟨hulDl, h⟩ := h.split
  obtain ⟨hx14, h⟩ := h.split
  obtain ⟨he, h⟩ := h.split
  obtain ⟨hmon, h⟩ := h.split
  obtain ⟨hf18, ha⟩ := h.split
  simp only [bvToBits_length, h14] at hulDl hx14 he hmon hf18 ha
  have hcond : mon.toNat = 0b00 ∧ fn = 18 ↔ mon = 0 ∧ fn = 18 := and_congr_left' (BitVec.toNat_inj (y := 0))
  have hzero : ulDl.toNat = 0 ↔ ulDl = 0 := BitVec.toNat_inj (y := 0)
  have hall : consumeAll p pos [2, 4] = .ok (pos + 6) := halloc.consumeAll_eq (bvToBits_length alloc)
  have hall' : consumeAll p (pos + 6 + 2) [1, 1, 12] = .ok (pos + 6 + 2 + 14) := hx14.consumeAll_eq h14
  rw [parseChanAlloc, hall, ok_bind, hulDl.getValue_bv_eq, ok_bind, hall', ok_bind]
  refine (he.flagged_bind (ns := [4, 2, 3, 1]) hext hv _).trans ?_
  beta_reduce
  rw [hmon.getValue_bv_eq, ok_bind]
  refine (hf18.consume_if_bind h18 hcond _).trans ?_
  beta_reduce
  by_cases hu : ulDl = 0
  · rw [if_pos hu] at ha ⊢
    rw [if_pos (hzero.mpr hu), haug _ ha]
    simp only [List.length_append, bvToBits_length, h14, Nat.add_assoc]
  · rw [if_neg hu, if_neg (mt hzero.mp hu), pure_eq_ok]
    simp only [List.length_append, bvToBits_length, h14, List.length_nil, Nat.add_zero, Nat.add_assoc]

/-- A flag alone, or a flag and its field. -/
theorem length_of_mem_flagged {e v : Bits} (he : e ∈ [[false], true :: v]) : 1 ≤ e.length ∧ e.length ≤ 1 + v.length := by
  simp only [List.mem_cons, List.not_mem_nil, or_false] at he
  obtain rfl | rfl := he <;> simp only [List.length_cons, List.length_nil] <;> omega

theorem length_ite_le {c : Prop} [Decidable c] (v : Bits) : (if c then v else []).length ≤ v.length := by
  split_ifs
  · exact le_rfl
  · exact Nat.zero_le _

/-- Settles O51: the element is parsed field by field, and each of its parts is at most as long as in its longest form. -/
theorem channelAllocationElement : Obligations.ChannelAllocationElement := by
  intro pre post alloc ulDl mon f18 nap x14 carrier x26 x11 x4 x16 y16 last s ext hext opt1 hopt1 opt2 hopt2 augmented element
  have haug : ∀ q, StandsAt (pre ++ element ++ post) q augmented →
      parseAugmented (pre ++ element ++ post) q = .ok (q + augmented.length) := fun q h =>
    parseAugmented_eq h (bvToBits_length _) (bvToBits_length _) (bvToBits_length _) (bvToBits_length _) hopt1
      (bvToBits_length _) hopt2 (bvToBits_length _)
  have hparse : parseChanAlloc s.time.fn (pre ++ element ++ post) pre.length = .ok (pre.length + element.length) :=
    parseChanAlloc_eq (standsAt_middle ..) (bvToBits_length _) hext (bvToBits_length _) (bvToBits_length _) haug
  have hext' := length_of_mem_flagged hext
  have hopt1' := length_of_mem_flagged hopt1
  have hopt2' := length_of_mem_flagged hopt2
  have hx11 := length_ite_le (c := nap = 1) (bvToBits x11)
  have hf18 := length_ite_le (c := mon = 0 ∧ s.time.fn = 18) (bvToBits f18)
  have hau := length_ite_le (c := ulDl = 0) augmented
  have haugmented : augmented.length ≤ 78 := by
    simp only [augmented, List.length_append, bvToBits_length] at *
    omega
  refine ⟨?_, ?_, ?_⟩
  · refine answer_next.mpr ?_
    rw [hparse, positionResult]
  · simp only [element, List.length_append, bvToBits_length]
    omega
  · simp only [element, List.length_append, bvToBits_length] at *
    omega

end Sys2Proof.Machine
end

section
/-! The bit-vector operations (family 40_bitvector): a field's value by its bits, the slices by the bits that exist, size, resize, distance and concatenation. -/

namespace Sys2Proof.Machine

/-! ### Slices, bit by bit -/

/-- The bits of a slice, where the slice has them (00 R9). -/
theorem slice_getElem? (v : Bits) (a b i : Nat) : (v.slice a b)[i]? = if i < b - a then v[a + i]? else none := by
  rw [Bits.slice, List.getElem?_take, List.getElem?_drop]

/-- Two slices, the second from where the first ends, are one. -/
theorem slice_append_slice (v : Bits) {a b c : Nat} (hab : a ≤ b) (hbc : b ≤ c) :
    v.slice a b ++ v.slice b c = v.slice a c := by
  have hdrop : v.drop b = (v.drop a).drop (b - a) := by rw [List.drop_drop, Nat.add_sub_cancel' hab]
  rw [Bits.slice, Bits.slice, Bits.slice, hdrop, ← List.take_add]
  congr 1
  omega

/-- `BV_EXTRACT`'s clamping, in the natural numbers (40 R142): a negative position is 0, a negative length is 0, and bits that do not exist are left out. -/
theorem extract_eq (v : Bits) (pos n : Int) : extract v pos n = (v.drop pos.toNat).take n.toNat := by
  rcases Nat.lt_or_ge pos.toNat v.length with hlt | hge
  · have hp : (min (max pos 0) (v.length : Int)).toNat = pos.toNat := by omega
    rw [extract, Bits.slice, hp, List.take_eq_take_iff, List.length_drop]
    omega
  · have hp : (min (max pos 0) (v.length : Int)).toNat = v.length := by omega
    rw [extract, Bits.slice, hp, List.drop_length, List.drop_eq_nil_of_le hge, List.take_nil, List.take_nil]

theorem extract_getElem? (v : Bits) (pos n : Int) (i : Nat) :
    (extract v pos n)[i]? = if (i : Int) < n then v[(max pos 0).toNat + i]? else none := by
  have hpos : (max pos 0).toNat = pos.toNat := by omega
  rw [extract_eq, List.getElem?_take, List.getElem?_drop, hpos]
  exact if_congr Int.lt_toNat rfl rfl

/-- `BV_FROM_OFFSET` without a length leaves out the first bits alone (40 R144). -/
theorem fromOffset_none (v : Bits) (offset : Nat) : fromOffset v offset none = v.drop offset := by
  rw [fromOffset, extract_eq, Int.toNat_natCast]
  exact List.take_of_length_le (by rw [List.length_drop]; omega)

/-- `BV_FROM_OFFSET` with a length is an extraction from a position that is not negative (40 R144). -/
theorem fromOffset_some_getElem? (v : Bits) (offset : Nat) (n : Int) (i : Nat) :
    (fromOffset v offset (some n))[i]? = if (i : Int) < n then v[offset + i]? else none := by
  have hoffset : (max (offset : Int) 0).toNat = offset := by omega
  rw [fromOffset, extract_getElem?, hoffset]

/-- Settles O23: every slice is an extraction, and an extraction is known bit by bit. -/
theorem slicesGiveBitsThatExist : Obligations.SlicesGiveBitsThatExist := by
  intro o s
  refine ⟨fun pos n => ?extract, fun offset => ?rest, fun offset n => ?part⟩
  case extract => exact ⟨_, answer_next.mpr rfl, extract_getElem? (readVec s o) pos n⟩
  case rest => exact answer_next.mpr (by rw [fromOffset_none])
  case part => exact ⟨_, answer_next.mpr rfl, fromOffset_some_getElem? (readVec s o) offset n⟩

/-! ### Field reads -/

/-- The MSB-first value as the sum of its bits at their weights (00 R10). -/
theorem bitsToNat_eq_sum (v : Bits) :
    bitsToNat v = ∑ i ∈ Finset.range v.length, (v.getD i false).toNat * 2 ^ (v.length - 1 - i) := by
  induction v with
  | nil => rfl
  | cons b v ih =>
    rw [bitsToNat_cons, List.length_cons, Finset.sum_range_succ', ih, Nat.add_comm]
    congr 1
    refine Finset.sum_congr rfl fun i _ => ?_
    rw [List.getD_cons_succ, Nat.add_sub_cancel, Nat.sub_sub, Nat.add_comm 1 i]

/-- A field that ends within the vector, by the vector's own bits (40 R141). -/
theorem bitsToNat_slice (v : Bits) {pos n : Nat} (h : pos + n ≤ v.length) :
    bitsToNat (v.slice pos (pos + n)) = ∑ i ∈ Finset.range n, (v.getD (pos + i) false).toNat * 2 ^ (n - 1 - i) := by
  have hlen : (v.slice pos (pos + n)).length = n := by rw [slice_length v h, Nat.add_sub_cancel_left]
  rw [bitsToNat_eq_sum, hlen]
  refine Finset.sum_congr rfl fun i hi => ?_
  have hin : i < pos + n - pos := by rw [Nat.add_sub_cancel_left]; exact Finset.mem_range.mp hi
  rw [List.getD_eq_getElem?_getD, slice_getElem?, if_pos hin, ← List.getD_eq_getElem?_getD]

/-- Outside its domain an operation is refused by name (93 U5). -/
theorem inDomain_refused {ok : Bool} {name : String} {a : Answer} (h : ok = false) :
    inDomain ok name a = .refused (.outsideDomain name) := by
  rw [h, inDomain, if_neg Bool.false_ne_true]

/-- `BV_GET_VALUE` on a width of its domain returns what the read gives. -/
theorem exec_bvGetValue {o : VecOperand} {pos n : Nat} {s : State} (hn : n ≤ 64) :
    exec (.bvGetValue o pos n) s = .next (s.returns (readResult (getValue (readVec s o) pos n))) :=
  inDomain_next.mpr ⟨decide_eq_true hn, rfl⟩

/-- A read returns a number exactly where the field has at most 64 bits and ends within the vector: the field's value. -/
theorem exec_bvGetValue_number {o : VecOperand} {pos n x : Nat} {s : State} :
    exec (.bvGetValue o pos n) s = .next (s.returns (.number x)) ↔
      n ≤ 64 ∧ pos + n ≤ (readVec s o).length ∧ bitsToNat ((readVec s o).slice pos (pos + n)) = x := by
  refine inDomain_next.trans (and_congr decide_eq_true_iff (answer_next.trans ?_))
  have hresult {r : Result} : s.returns (.number x) = s.returns r ↔ r = .number x :=
    ⟨fun h => (congrArg State.result h).symm, fun h => h ▸ rfl⟩
  rcases getValue_cases (readVec s o) pos n with ⟨hlt, hval⟩ | ⟨hle, hval⟩
  · simp [hresult, hval, readResult, Nat.not_le.mpr hlt]
  · simp [hresult, hval, readResult, hle]

theorem exec_bvGetValue_raised {o : VecOperand} {pos n : Nat} {s : State} (hn : n ≤ 64)
    (hlt : (readVec s o).length < pos + n) :
    exec (.bvGetValue o pos n) s = .next (s.returns (.raised ⟨pos, n, (readVec s o).length⟩)) := by
  rcases getValue_cases (readVec s o) pos n with ⟨_, hval⟩ | ⟨hle, _⟩
  · rw [exec_bvGetValue hn, hval, readResult]
  · omega

/-- Settles O22: the value is that of the field's slice, and the slices of two adjoining fields are the slice of the one field they make. -/
theorem getValueReadsField : Obligations.GetValueReadsField := by
  refine ⟨fun o pos n s => ⟨fun hn hle => ?reads, exec_bvGetValue_raised, fun hn => ?refuses⟩,
    fun o pos m n x y s hmn hx hy => ?concatenates⟩
  case reads => exact exec_bvGetValue_number.mpr ⟨hn, hle, bitsToNat_slice _ hle⟩
  case refuses => exact inDomain_refused (decide_eq_false (Nat.not_le.mpr hn))
  case concatenates =>
    obtain ⟨_, _, rfl⟩ := exec_bvGetValue_number.mp hx
    obtain ⟨_, hend, rfl⟩ := exec_bvGetValue_number.mp hy
    have hlen : ((readVec s o).slice (pos + m) (pos + m + n)).length = n := by
      rw [slice_length _ hend, Nat.add_sub_cancel_left]
    rw [Nat.add_assoc] at hend
    refine exec_bvGetValue_number.mpr ⟨hmn, hend, ?_⟩
    rw [← Nat.add_assoc, ← slice_append_slice _ (Nat.le_add_right pos m) (Nat.le_add_right (pos + m) n),
      bitsToNat_append, hlen]

/-! ### Size, resize, distance, concatenation -/

theorem resize_length (v : Bits) (n : Nat) : (resize v n).length = n := by
  unfold resize
  split <;> simp <;> omega

/-- A resized vector keeps its bits, and those it did not have are 0 (40 R145). -/
theorem resize_getElem? (v : Bits) {n i : Nat} (hi : i < n) : (resize v n)[i]? = some (v.getD i false) := by
  rw [List.getD_eq_getElem?_getD]
  unfold resize
  split
  next hle =>
    rw [List.getElem?_take_of_lt hi, List.getElem?_eq_getElem (Nat.lt_of_lt_of_le hi hle), Option.getD_some]
  next hgt =>
    rcases Nat.lt_or_ge i v.length with hlt | hge
    · rw [List.getElem?_append_left hlt, List.getElem?_eq_getElem hlt, Option.getD_some]
    · rw [List.getElem?_append_right hge, List.getElem?_replicate_of_lt (by omega), List.getElem?_eq_none hge,
        Option.getD_none]

/-- The distance is the number of positions at which two vectors of one length differ (40 R146). -/
theorem hamming_eq_count {u : Bits} : ∀ {v : Bits}, u.length = v.length →
    hamming u v = ((List.range u.length).filter fun i => u[i]? != v[i]?).length := by
  induction u with
  | nil => intro v _; cases v <;> rfl
  | cons a u ih =>
    rintro (_ | ⟨b, v⟩) hl
    · cases hl
    · rw [hamming, ih (Nat.succ.inj hl), List.length_cons, List.range_succ_eq_map, List.filter_cons, List.filter_map]
      by_cases hab : a = b <;> simp [hab, Function.comp_def, Nat.add_comm]

/-- Settles O24: the resized vector and the distance position by position; the size and the concatenations are the operations' own definitions. -/
theorem sizeResizeHammingAppend : Obligations.SizeResizeHammingAppend := by
  refine ⟨fun o a b n s => ⟨rfl, ?resize, fun hl => ?hamming, fun hl => ?refuses⟩, fun v u s => ⟨rfl, rfl, rfl⟩⟩
  case resize => exact ⟨_, answer_next.mpr rfl, resize_length _ n, fun i hi => resize_getElem? _ hi⟩
  case hamming => exact inDomain_next.mpr ⟨beq_iff_eq.mpr hl, answer_next.mpr (by rw [hamming_eq_count hl])⟩
  case refuses => exact inDomain_refused (beq_eq_false_iff_ne.mpr hl)

end Sys2Proof.Machine
end

section
/-! The block codes (family 41_block_codes): the mother code. What the encoder puts out, by its memory and by its generators, and what a received vector's distance from it is. -/

namespace Sys2Proof.Machine

/-! ### The mother encoder -/

/-- The encoder's memory after an input (41 R163). -/
def convState (u : Bits) : ConvState := u.foldl convNext .zero

theorem convState_concat (u : Bits) (b : Bool) : convState (u ++ [b]) = convNext (convState u) b := List.foldl_concat ..

theorem convEncodeFrom_append (s : ConvState) (u v : Bits) :
    convEncodeFrom s (u ++ v) = convEncodeFrom s u ++ convEncodeFrom (u.foldl convNext s) v := by
  induction u generalizing s with
  | nil => rfl
  | cons b u ih => rw [List.cons_append, convEncodeFrom, convEncodeFrom, ih, List.append_assoc, List.foldl_cons]

theorem convEncode_length (u : Bits) : (convEncode u).length = 4 * u.length := convEncodeFrom_length .zero u

theorem convEncode_concat (u : Bits) (b : Bool) : convEncode (u ++ [b]) = convEncode u ++ convOut (convState u) b :=
  convEncodeFrom_append .zero u [b]

/-- The four symbols of input bit `k`, by the memory that the bits before it leave. -/
theorem convEncode_getElem? (u : Bits) {k i : Nat} (hk : k < u.length) (hi : i < 4) :
    (convEncode u)[4 * k + i]? = (convOut (convState (u.take k)) u[k])[i]? := by
  have hu : u = u.take k ++ u[k] :: u.drop (k + 1) := by rw [List.cons_getElem_drop_succ, List.take_append_drop]
  have hlen : (convEncodeFrom .zero (u.take k)).length = 4 * k := by
    rw [convEncodeFrom_length, List.length_take_of_le hk.le]
  have hout : i < (convOut (convState (u.take k)) u[k]).length := hi
  calc (convEncode u)[4 * k + i]?
      = (convEncodeFrom .zero (u.take k) ++ convEncodeFrom (convState (u.take k)) (u[k] :: u.drop (k + 1)))[4 * k + i]? := by
        rw [convState, ← convEncodeFrom_append, ← hu, convEncode]
    _ = (convOut (convState (u.take k)) u[k])[i]? := by
        rw [List.getElem?_append_right (by omega), hlen, Nat.add_sub_cancel_left, convEncodeFrom,
          List.getElem?_append_left hout]

/-- The input bit `d` places before place `k`; 0 before the first (41 R163). -/
def bitBefore (u : Bits) (k d : Nat) : Bool := decide (d ≤ k) && u.getD (k - d) false

theorem bitBefore_succ (u : Bits) (k d : Nat) : bitBefore u (k + 1) (d + 1) = bitBefore u k d := by
  rw [bitBefore, bitBefore, Nat.add_sub_add_right, decide_eq_decide.mpr Nat.add_le_add_iff_right]

theorem bitBefore_zero (u : Bits) {k : Nat} (hk : k < u.length) : bitBefore u k 0 = u[k] := by
  rw [bitBefore, decide_eq_true (Nat.zero_le k), Bool.true_and, Nat.sub_zero, ← List.getElem_eq_getD]

/-- The memory holds the last four input bits, zeros where there were none. -/
theorem convState_take (u : Bits) {k : Nat} (hk : k ≤ u.length) :
    convState (u.take k) = ⟨bitBefore u k 1, bitBefore u k 2, bitBefore u k 3, bitBefore u k 4⟩ := by
  induction k with
  | zero => rfl
  | succ k ih =>
    rw [← List.take_concat_get' u k hk, convState_concat, ih (Nat.le_of_succ_le hk), convNext, bitBefore_succ,
      bitBefore_succ, bitBefore_succ, bitBefore_succ, bitBefore_zero u hk]

/-- Each mother symbol is the sum of the input bits at its generator's taps (41 R163). -/
theorem convEncode_taps (u : Bits) {k i : Nat} (hk : k < u.length) (hi : i < 4) :
    (convEncode u)[4 * k + i]? = some ((List.range 5).foldl (fun b d =>
      b ^^ (([0b10011, 0b11101, 0b10111, 0b11011].getD i 0).testBit d && bitBefore u k d)) false) := by
  rw [convEncode_getElem? u hk hi, convState_take u hk.le, ← bitBefore_zero u hk]
  interval_cases i <;> simp [convOut, List.range_succ, Nat.testBit, Nat.shiftRight_eq_div_pow]

/-- The generator `G1` adds the newest bit to the memory's, so its symbols alone fix the input. -/
theorem eq_of_firstSymbols_eq {u : Bits} : ∀ {v : Bits} {s : ConvState}, v.length = u.length →
    (∀ k < u.length, (convEncodeFrom s v)[4 * k]? = (convEncodeFrom s u)[4 * k]?) → v = u := by
  induction u with
  | nil => intro v s hl _; exact List.length_eq_zero_iff.mp hl
  | cons a u ih =>
    rintro (_ | ⟨b, v⟩) s hl h
    · cases hl
    · have hab : b = a := by
        have h0 := h 0 (Nat.zero_lt_succ _)
        simpa [convEncodeFrom, convOut] using h0
      subst hab
      refine congrArg (b :: ·) (ih (s := convNext s b) (Nat.succ.inj hl) fun k hk => ?_)
      exact h (k + 1) (Nat.succ_lt_succ hk)

/-! ### Distance from the mother code -/

theorem symDistance_append {p : List Sym} : ∀ {v : Bits} (q : List Sym) (w : Bits), p.length = v.length →
    symDistance (p ++ q) (v ++ w) = symDistance p v + symDistance q w := by
  induction p with
  | nil => rintro (_ | ⟨b, v⟩) q w hl <;> simp [symDistance] at hl ⊢
  | cons y p ih =>
    rintro (_ | ⟨b, v⟩) q w hl
    · cases hl
    · rw [List.cons_append, List.cons_append, symDistance, symDistance, ih q w (Nat.succ.inj hl), Nat.add_assoc]

theorem symDistance_le_length (y : List Sym) : ∀ v : Bits, symDistance y v ≤ y.length := by
  induction y with
  | nil => intro v; exact Nat.le_refl 0
  | cons a y ih =>
    rintro (_ | ⟨b, v⟩)
    · exact Nat.zero_le _
    · have := ih v
      rw [symDistance, List.length_cons]
      split <;> omega

/-- No distance: every symbol is erased or the code's own. -/
theorem symDistance_eq_zero {y : List Sym} : ∀ {v : Bits}, y.length = v.length →
    (symDistance y v = 0 ↔ ∀ k < v.length, y[k]? = some .erased ∨ y[k]? = v[k]?.map symOfBit) := by
  induction y with
  | nil => rintro (_ | ⟨b, v⟩) hl <;> simp [symDistance] at hl ⊢
  | cons a y ih =>
    rintro (_ | ⟨b, v⟩) hl
    · cases hl
    · have hhead : (if a = .erased ∨ a = symOfBit b then 0 else 1) = 0 ↔ a = .erased ∨ a = symOfBit b := by
        simp [or_iff_not_imp_left]
      rw [symDistance, Nat.add_eq_zero_iff, hhead, ih (Nat.succ.inj hl), List.length_cons, Nat.forall_lt_succ_left']
      simp

theorem symOfBit_injective : ∀ {a b : Bool}, symOfBit a = symOfBit b → a = b := by decide

theorem symOfBit_ne_erased : ∀ a : Bool, symOfBit a ≠ .erased := by decide

/-! ### Puncturing and depuncturing, position by position -/

theorem depunctureGroup_length (P : Puncture) (a b c : Bool) : (depunctureGroup P a b c).length = 8 := by
  simp [depunctureGroup]

/-- A group of eight: of the bits stored at one position the last stands (41 R162, log entry 21). -/
theorem depunctureGroup_getElem? (P : Puncture) (a b c : Bool) {i : Nat} (hi : i < 8) :
    (depunctureGroup P a b c)[i]? = if i = P.p3 then some (symOfBit c) else if i = P.p2 then some (symOfBit b)
      else if i = P.p1 then some (symOfBit a) else some .erased := by
  simp only [depunctureGroup, List.getElem?_set, List.length_set, List.length_replicate, Fin.is_lt, if_true,
    List.getElem?_replicate_of_lt hi, eq_comm (b := i)]

theorem depuncture_length (P : Puncture) : ∀ {n : Nat} {x : Bits}, x.length = 3 * n → (depuncture P x).length = 8 * n
  | 0, x, hx => by
    obtain rfl : x = [] := List.length_eq_zero_iff.mp hx
    rfl
  | n + 1, a :: b :: c :: rest, hx => by
    have hlen := depuncture_length P (n := n) (x := rest) (by simp at hx; omega)
    rw [depuncture, List.length_append, hlen, depunctureGroup_length]
    omega

/-- Position `i` of group `m` of the depunctured vector, by the group's three bits (41 R162). -/
theorem depuncture_getElem? (P : Puncture) {i : Nat} (hi : i < 8) : ∀ {n m : Nat} {x : Bits}, x.length = 3 * n → m < n →
    (depuncture P x)[8 * m + i]? = if i = P.p3 then x[3 * m + 2]?.map symOfBit
      else if i = P.p2 then x[3 * m + 1]?.map symOfBit else if i = P.p1 then x[3 * m]?.map symOfBit else some .erased
  | _ + 1, 0, a :: b :: c :: rest, _, _ => by
    have hin : 8 * 0 + i < (depunctureGroup P a b c).length := by rw [depunctureGroup_length]; omega
    rw [depuncture, List.getElem?_append_left hin, Nat.mul_zero, Nat.zero_add, depunctureGroup_getElem? P a b c hi]
    rfl
  | _ + 1, m + 1, a :: b :: c :: rest, hx, hm => by
    have hrest := depuncture_getElem? P hi (x := rest) (by simp at hx; omega) (Nat.lt_of_succ_lt_succ hm)
    have hpos : 8 * (m + 1) + i - 8 = 8 * m + i := by omega
    rw [depuncture, List.getElem?_append_right (by rw [depunctureGroup_length]; omega), depunctureGroup_length, hpos, hrest]
    rfl

/-- Puncturing keeps three symbols of each group of eight, at the pattern's positions (41 R162). -/
theorem puncture_groups (P : Puncture) : ∀ {n : Nat} {v : Bits}, v.length = 8 * n →
    (puncture P v).length = 3 * n ∧ ∀ m < n, (puncture P v)[3 * m]? = v[8 * m + P.p1]? ∧
      (puncture P v)[3 * m + 1]? = v[8 * m + P.p2]? ∧ (puncture P v)[3 * m + 2]? = v[8 * m + P.p3]?
  | 0, v, hv => by
    obtain rfl : v = [] := List.length_eq_zero_iff.mp hv
    exact ⟨rfl, fun m hm => absurd hm (Nat.not_lt_zero m)⟩
  | n + 1, a :: b :: c :: d :: e :: f :: g :: h :: rest, hv => by
    obtain ⟨hlen, hgroups⟩ := puncture_groups P (n := n) (v := rest) (by simp at hv; omega)
    have hgroup (q : Fin 8) : [a, b, c, d, e, f, g, h][q.val]? = some ([a, b, c, d, e, f, g, h].getD q false) := by
      rw [List.getElem?_eq_getElem q.isLt, ← List.getElem_eq_getD]
    have hfirst (q : Fin 8) : (a :: b :: c :: d :: e :: f :: g :: h :: rest)[8 * 0 + q.val]? =
        some ([a, b, c, d, e, f, g, h].getD q false) := by
      rw [← hgroup q, Nat.mul_zero, Nat.zero_add]
      exact List.getElem?_append_left (l₁ := [a, b, c, d, e, f, g, h]) q.isLt
    have hrest (m i : Nat) : (a :: b :: c :: d :: e :: f :: g :: h :: rest)[8 * (m + 1) + i]? = rest[8 * m + i]? := by
      rw [show 8 * (m + 1) + i = 8 * m + i + 8 by omega]; rfl
    refine ⟨by rw [puncture, List.length_append, hlen]; simp; omega, fun m hm => ?_⟩
    rcases m with _ | m
    · exact ⟨(hfirst P.p1).symm, (hfirst P.p2).symm, (hfirst P.p3).symm⟩
    · rw [hrest, hrest, hrest]
      exact hgroups m (Nat.lt_of_succ_lt_succ hm)

/-- What a receiver without errors has: the mother code at the pattern's positions of each group, erasures elsewhere (41 R162, R163). -/
theorem received_getElem? (P : Puncture) {u : Bits} (hu : u.length % 2 = 0) {k : Nat} (hk : k < 4 * u.length) :
    (received P u)[k]? = if k % 8 = P.p1 ∨ k % 8 = P.p2 ∨ k % 8 = P.p3 then (convEncode u)[k]?.map symOfBit
      else some .erased := by
  have hlen : (convEncode u).length = 8 * (u.length / 2) := by rw [convEncode_length]; omega
  have hm : k / 8 < u.length / 2 := by omega
  have hdiv : 8 * (k / 8) + k % 8 = k := Nat.div_add_mod k 8
  obtain ⟨hplen, hp⟩ := puncture_groups P hlen
  obtain ⟨h1, h2, h3⟩ := hp _ hm
  have hk8 := depuncture_getElem? P (Nat.mod_lt k (by decide : 0 < 8)) hplen hm
  rw [hdiv, h1, h2, h3] at hk8
  have hat {q : Nat} (hq : k % 8 = q) : (convEncode u)[8 * (k / 8) + q]? = (convEncode u)[k]? := by rw [← hq, hdiv]
  rw [received, hk8]
  by_cases e3 : k % 8 = P.p3
  · rw [if_pos e3, if_pos (.inr (.inr e3)), hat e3]
  · by_cases e2 : k % 8 = P.p2
    · rw [if_neg e3, if_pos e2, if_pos (.inr (.inl e2)), hat e2]
    · by_cases e1 : k % 8 = P.p1
      · rw [if_neg e3, if_neg e2, if_pos e1, if_pos (.inl e1), hat e1]
      · rw [if_neg e3, if_neg e2, if_neg e1, if_neg (by simp only [e1, e2, e3, or_self, not_false_iff])]

/-- Settles O27: each position of each group, by the group's three bits. -/
theorem depuncturePlacesBits : Obligations.DepuncturePlacesBits := by
  intro x s hx h12 h13 h23
  have hdomain : isBlockLength x.length = true := by simpa [isBlockLength, or_assoc] using hx
  have hthird : x.length = 3 * (x.length / 3) := by omega
  have hlen := depuncture_length s.params.punct hthird
  refine ⟨_, inDomain_next.mpr ⟨hdomain, answer_next.mpr rfl⟩, by omega, fun m hm => ?_⟩
  have hat (q : Fin 8) := depuncture_getElem? s.params.punct q.isLt hthird hm
  refine ⟨?first, ?second, ?third, fun k hk1 hk2 hk3 => ?erased⟩
  case first => rw [hat, if_neg (Fin.val_ne_of_ne h13), if_neg (Fin.val_ne_of_ne h12), if_pos rfl]
  case second => rw [hat, if_neg (Fin.val_ne_of_ne h23), if_pos rfl]
  case third => rw [hat, if_pos rfl]
  case erased =>
    rw [hat, if_neg (Fin.val_ne_of_ne hk3), if_neg (Fin.val_ne_of_ne hk2), if_neg (Fin.val_ne_of_ne hk1)]

end Sys2Proof.Machine
end

section
/-! The maximum-likelihood decoder (family 41_block_codes): what a survivor of the trellis stands for, what each section and the choice of the end state keep of it, and so what the decoder answers. -/

namespace Sys2Proof.Machine

/-! ### Survivors -/

/-- What the survivor `a` of state `s` stands for after the symbols `p`: no input that ends in `s` is nearer to `p` than `a`'s metric, which its path attains, unless no path reaches `s` yet. -/
structure SurvivorOf (bound : Nat) (p : List Sym) (s : ConvState) (a : Survivor) : Prop where
  length : 4 * a.path.length = p.length
  least : ∀ u, 4 * u.length = p.length → convState u = s → a.metric ≤ symDistance p (convEncode u)
  attained : bound ≤ a.metric ∨ convState a.path.reverse = s ∧ symDistance p (convEncode a.path.reverse) = a.metric

theorem survivorOf_start (bound : Nat) (s : ConvState) :
    SurvivorOf bound [] s ⟨if s = .zero then 0 else bound, []⟩ where
  length := rfl
  least u hl hs := by
    obtain rfl : u = [] := List.length_eq_zero_iff.mp (by simpa using hl)
    rw [if_pos (show s = .zero from hs.symm)]
    exact Nat.zero_le _
  attained := by
    by_cases hs : s = .zero
    · rw [if_pos hs]; exact .inr ⟨hs.symm, rfl⟩
    · rw [if_neg hs]; exact .inl (Nat.le_refl bound)

/-- A comparison keeps one of its two survivors whole, and no metric is less than the one kept. -/
theorem better_cases (tie : Bool) (a b : Survivor) :
    (better tie a b = a ∨ better tie a b = b) ∧ (better tie a b).metric ≤ a.metric ∧
      (better tie a b).metric ≤ b.metric := by
  refine ⟨?_, Nat.min_le_left .., Nat.min_le_right ..⟩
  obtain ⟨m, v⟩ := a
  obtain ⟨n, w⟩ := b
  rcases Nat.lt_trichotomy m n with h | rfl | h
  · left; simp [better, h, h.le]
  · cases tie <;> simp [better]
  · right; simp [better, h, h.le, h.not_gt]

/-- One more input bit takes the encoder from the state before `s` to `s`. -/
theorem convNext_convPrev (s : ConvState) (out : Bool) : convNext (convPrev s out) s.d1 = s := rfl

theorem convPrev_convNext (s : ConvState) (b : Bool) : convPrev (convNext s b) s.d4 = s := rfl

/-- The distance of an input with one bit more: its last four symbols are compared with what the encoder puts out last. -/
theorem symDistance_concat {p ys : List Sym} {u : Bits} (b : Bool) (hl : 4 * u.length = p.length) :
    symDistance (p ++ ys) (convEncode (u ++ [b])) =
      symDistance p (convEncode u) + symDistance ys (convOut (convState u) b) := by
  rw [convEncode_concat, symDistance_append ys _ (by rw [convEncode_length, hl])]

/-- The better of the two survivors that lead to a state, each extended over four symbols, is the state's survivor: the last bit of an input that ends in the state is known, and the bit that fell out of the memory says which of the two is at least as good as it. -/
theorem SurvivorOf.step {bound : Nat} {p ys : List Sym} {s : ConvState} {a : Bool → Survivor} (hys : ys.length = 4)
    (ha : ∀ out, SurvivorOf bound p (convPrev s out) (a out)) (tie : Bool) :
    SurvivorOf bound (p ++ ys) s
      (better tie (extend ys (convPrev s false) s.d1 (a false)) (extend ys (convPrev s true) s.d1 (a true))) := by
  obtain ⟨hkept, hfalse, htrue⟩ := better_cases tie (extend ys (convPrev s false) s.d1 (a false))
    (extend ys (convPrev s true) s.d1 (a true))
  generalize better tie _ _ = r at hkept hfalse htrue ⊢
  have hone : ∃ out, r = extend ys (convPrev s out) s.d1 (a out) := hkept.elim (⟨false, ·⟩) (⟨true, ·⟩)
  have hle (out : Bool) : r.metric ≤ (a out).metric + symDistance ys (convOut (convPrev s out) s.d1) := by
    cases out
    · exact hfalse
    · exact htrue
  obtain ⟨out, rfl⟩ := hone
  refine ⟨?length, fun u hu hs => ?least, ?attained⟩
  case length =>
    have := (ha out).length
    simp only [extend, List.length_cons, List.length_append]
    omega
  case least =>
    rcases List.eq_nil_or_concat' u with rfl | ⟨v, b, rfl⟩
    · simp at hu; omega
    · have hv : 4 * v.length = p.length := by simp [hys] at hu; omega
      rw [convState_concat] at hs
      subst hs
      rw [symDistance_concat b hv]
      have hprev := hle (convState v).d4
      rw [convPrev_convNext] at hprev
      exact hprev.trans (Nat.add_le_add_right ((ha _).least v hv (convPrev_convNext _ b).symm) _)
  case attained =>
    rcases (ha out).attained with hbound | ⟨hstate, hmetric⟩
    · exact .inl (hbound.trans (Nat.le_add_right ..))
    · refine .inr ⟨?_, ?_⟩
      · rw [extend, List.reverse_cons, convState_concat, hstate, convNext_convPrev]
      · rw [extend, List.reverse_cons, symDistance_concat _ (by rw [List.length_reverse, (ha out).length]), hstate, hmetric]

/-! ### The trellis -/

theorem mem_allStates (s : ConvState) : s ∈ allStates := by
  obtain ⟨d1, d2, d3, d4⟩ := s
  revert d1 d2 d3 d4
  decide

/-- A table that is made of a function holds the function's values. -/
theorem survivorAt_map (f : ConvState → Survivor) (s : ConvState) :
    survivorAt (allStates.map fun s => (s, f s)) s = f s := by
  rw [survivorAt, List.lookup_graph f (mem_allStates s), Option.getD_some]

/-- The run keeps, for every state, what the state's survivor stands for. -/
theorem trellisRun_survivorOf {bound : Nat} (tie : Nat → ConvState → Bool) : ∀ (n k : Nat) (y p : List Sym)
    (t : List (ConvState × Survivor)), y.length = 4 * n → (∀ s, SurvivorOf bound p s (survivorAt t s)) →
    ∀ s, SurvivorOf bound (p ++ y) s (survivorAt (trellisRun tie k y t) s)
  | 0, k, y, p, t, hy, ht => by
    obtain rfl : y = [] := List.length_eq_zero_iff.mp hy
    rw [List.append_nil]
    exact ht
  | n + 1, k, a :: b :: c :: d :: y, p, t, hy, ht => by
    have hstep (s : ConvState) : SurvivorOf bound (p ++ [a, b, c, d]) s (survivorAt (trellisStep (tie k) [a, b, c, d] t) s) := by
      rw [trellisStep, survivorAt_map]
      exact SurvivorOf.step (a := fun out => survivorAt t (convPrev s out)) rfl (fun out => ht _) (tie k s)
    have := trellisRun_survivorOf tie n (k + 1) y _ _ (by simp at hy; omega) hstep
    rwa [List.append_assoc] at this

/-- The choice over a list of states keeps one of the survivors, and none is better. -/
theorem foldl_better (tie : ConvState → Bool) (f : ConvState → Survivor) (l : List ConvState) : ∀ a : Survivor,
    (l.foldl (fun a s => better (tie s) a (f s)) a = a ∨ ∃ s, l.foldl (fun a s => better (tie s) a (f s)) a = f s) ∧
      (l.foldl (fun a s => better (tie s) a (f s)) a).metric ≤ a.metric ∧
      ∀ s ∈ l, (l.foldl (fun a s => better (tie s) a (f s)) a).metric ≤ (f s).metric := by
  induction l with
  | nil => exact fun a => ⟨.inl rfl, Nat.le_refl _, fun s hs => absurd hs List.not_mem_nil⟩
  | cons s l ih =>
    intro a
    obtain ⟨hkept, hleft, hright⟩ := better_cases (tie s) a (f s)
    obtain ⟨hmem, hle, hall⟩ := ih (better (tie s) a (f s))
    refine ⟨?_, hle.trans hleft, List.forall_mem_cons.mpr ⟨hle.trans hright, hall⟩⟩
    rw [List.foldl_cons]
    rcases hmem with h | h
    · rw [h]; exact hkept.imp_right (⟨s, ·⟩)
    · exact .inr h

/-- The best survivor is one of the table's, and none is better (41 R164, "may end in any state"). -/
theorem bestSurvivor_cases (tie : ConvState → Bool) (t : List (ConvState × Survivor)) :
    (∃ s, bestSurvivor tie t = survivorAt t s) ∧ ∀ s, (bestSurvivor tie t).metric ≤ (survivorAt t s).metric := by
  obtain ⟨hmem, hzero, hall⟩ := foldl_better tie (survivorAt t) (allStates.drop 1) (survivorAt t .zero)
  refine ⟨hmem.elim (⟨.zero, ·⟩) id, fun s => ?_⟩
  rcases List.mem_cons.mp (mem_allStates s) with rfl | hs
  · exact hzero
  · exact hall s hs

/-- The default decoder answers an input whose mother code is nearest to the symbols, however ties are settled (41 R164, 93 U1): every distance is below the bound that marks a state no path reaches, so the best survivor's metric is its path's own distance. -/
theorem viterbiMl_nearest (tie : Nat → ConvState → Bool) (endTie : ConvState → Bool) {y : List Sym}
    (hy : y.length % 4 = 0) :
    4 * (viterbiMl tie endTie y).length = y.length ∧ ∀ u : Bits, 4 * u.length = y.length →
      symDistance y (convEncode (viterbiMl tie endTie y)) ≤ symDistance y (convEncode u) := by
  have hstart (s : ConvState) : SurvivorOf (y.length + 1) [] s (survivorAt (trellisStart (y.length + 1)) s) := by
    rw [trellisStart, survivorAt_map]
    exact survivorOf_start _ s
  have hrun := trellisRun_survivorOf tie (y.length / 4) 0 y [] _ (by omega) hstart
  rw [List.nil_append] at hrun
  obtain ⟨⟨s, hbest⟩, hleast⟩ := bestSurvivor_cases endTie (trellisRun tie 0 y (trellisStart (y.length + 1)))
  have hnear (u : Bits) (hu : 4 * u.length = y.length) :
      (survivorAt (trellisRun tie 0 y (trellisStart (y.length + 1))) s).metric ≤ symDistance y (convEncode u) :=
    hbest ▸ (hleast _).trans ((hrun (convState u)).least u hu rfl)
  rw [viterbiMl, hbest]
  have hlen := (hrun s).length
  refine ⟨by rw [List.length_reverse, hlen], fun u hu => ?_⟩
  rcases (hrun s).attained with hbound | ⟨-, hmetric⟩
  · have := symDistance_le_length y (convEncode u)
    have := hnear u hu
    omega
  · rw [hmetric]
    exact hnear u hu

/-- Settles O28: the nearest input by the trellis, the mother code by its taps. -/
theorem viterbiIsMaximumLikelihood : Obligations.ViterbiIsMaximumLikelihood := by
  refine ⟨fun y s hy hdefault => ?nearest, fun u => ⟨convEncode_length u, fun k hk i hi => ?taps⟩⟩
  case nearest =>
    have hdomain : isSymbolLength y.length = true := by simpa [isSymbolLength, or_assoc] using hy
    obtain ⟨hlen, hnear⟩ := viterbiMl_nearest (Config.viterbiTie y) (Config.viterbiEndTie y) (y := y) (by omega)
    have hdecode : viterbiDecode s.params y = viterbiMl (Config.viterbiTie y) (Config.viterbiEndTie y) y := by
      rw [viterbiDecode, hdefault]
    refine ⟨_, inDomain_next.mpr ⟨hdomain, answer_next.mpr rfl⟩, ?_⟩
    rw [hdecode]
    exact ⟨by omega, fun u hu => hnear u (by rw [hu, hlen])⟩
  case taps => simpa only [bitBefore, Bool.and_assoc] using convEncode_taps u hk hi

/-! ### Codewords -/

/-- With the default pattern the first symbol of every input bit is received. -/
theorem received_default_firstSymbol {u : Bits} (hu : u.length % 2 = 0) {k : Nat} (hk : k < u.length) :
    (received Params.default.punct u)[4 * k]? = (convEncode u)[4 * k]?.map symOfBit := by
  have hpos : 4 * k % 8 = 0 ∨ 4 * k % 8 = 1 ∨ 4 * k % 8 = 4 := by omega
  rw [received_getElem? _ hu (by omega)]
  exact if_pos hpos

/-- No other input of the length has its mother code at no distance from what is received of `u` with the default pattern. -/
theorem eq_of_symDistance_received {u v : Bits} (hu : u.length % 2 = 0) (hl : v.length = u.length)
    (h : symDistance (received Params.default.punct u) (convEncode v) = 0) : v = u := by
  refine eq_of_firstSymbols_eq (s := .zero) hl fun k hk => ?_
  have hlen : (received Params.default.punct u).length = (convEncode v).length := by
    rw [received_length _ u hu, convEncode_length, hl]
  have hk' : 4 * k < (convEncode v).length := by rw [convEncode_length]; omega
  have hk'' : 4 * k < (convEncode u).length := by rw [convEncode_length]; omega
  have hsym := (symDistance_eq_zero hlen).mp h (4 * k) hk'
  rw [received_default_firstSymbol hu hk, List.getElem?_eq_getElem hk', List.getElem?_eq_getElem hk'',
    Option.map_some, Option.map_some, Option.some_inj, Option.some_inj] at hsym
  have hbit := symOfBit_injective (hsym.resolve_left (symOfBit_ne_erased _))
  rw [← convEncode, ← convEncode, List.getElem?_eq_getElem hk', List.getElem?_eq_getElem hk'', hbit]

theorem symDistance_received (P : Puncture) {u : Bits} (hu : u.length % 2 = 0) :
    symDistance (received P u) (convEncode u) = 0 := by
  refine (symDistance_eq_zero (by rw [received_length P u hu, convEncode_length])).mpr fun k hk => ?_
  rw [convEncode_length] at hk
  rw [received_getElem? P hu hk]
  split
  · exact .inr rfl
  · exact .inl rfl

theorem recoverable_default {u : Bits} (hu : u.length % 2 = 0) : Recoverable Params.default.punct u := fun _ hl h =>
  eq_of_symDistance_received hu hl (h ▸ symDistance_received _ (hl ▸ hu))

/-- The default decoder gives back what an error-free encoder sent: its answer is at no distance, as the input is (41 R164(a)). -/
theorem viterbiMl_received (tie : Nat → ConvState → Bool) (endTie : ConvState → Bool) {u : Bits} (hu : u.length % 2 = 0) :
    viterbiMl tie endTie (received Params.default.punct u) = u := by
  have hlen := received_length Params.default.punct u hu
  obtain ⟨hl, hnear⟩ := viterbiMl_nearest tie endTie (y := received Params.default.punct u) (by omega)
  refine eq_of_symDistance_received hu (by omega) (Nat.le_zero.mp ?_)
  exact (hnear u hlen.symm).trans (symDistance_received _ hu).le

/-- Every decoder of the machine gives back what an error-free encoder sent (41 R164(a)). -/
theorem viterbiDecode_received {p : Params} (hp : p.punct = Params.default.punct) {u : Bits} (hu : u.length % 2 = 0) :
    viterbiDecode p (received p.punct u) = u := by
  rw [hp]
  unfold viterbiDecode
  split
  next => exact viterbiMl_received _ _ hu
  next => rw [hp]; exact Config.viterbiOther.correct _ u hu (recoverable_default hu)

/-- Settles O29: what is received is known position by position, and of all inputs the one sent alone is at no distance from it. -/
theorem viterbiRecoversCodewords : Obligations.ViterbiRecoversCodewords := by
  refine ⟨fun u s hu hp => ?decodes, fun P u hu => ⟨received_length P u hu, fun k hk => received_getElem? P hu hk⟩⟩
  case decodes =>
    have heven : u.length % 2 = 0 := by omega
    have hdomain : isSymbolLength (received s.params.punct u).length = true := by
      rw [received_length _ u heven]
      rcases hu with h | h | h <;> rw [h] <;> rfl
    exact inDomain_next.mpr ⟨hdomain, answer_next.mpr (by rw [viterbiDecode_received hp heven])⟩

end Sys2Proof.Machine
end

section
/-! The scrambler, the deinterleaver and the Reed-Muller decoder (family 41_block_codes): the sequence by its feedback polynomial, descrambling and deinterleaving as inverses of the test encoder's operations. -/

namespace Sys2Proof.Machine

/-! ### The scrambler -/

/-- Two vectors of one length added to a vector in turn: the second addition of the same one undoes the first. -/
theorem xorBits_xorBits {x : Bits} : ∀ {s : Bits}, x.length = s.length → xorBits (xorBits x s) s = x := by
  induction x with
  | nil => intro s _; rfl
  | cons a x ih =>
    rintro (_ | ⟨b, s⟩) hl
    · cases hl
    · rw [xorBits, xorBits, List.zipWith_cons_cons, List.zipWith_cons_cons, Bool.xor_assoc, Bool.xor_self, Bool.xor_false]
      exact congrArg (a :: ·) (ih (Nat.succ.inj hl))

theorem lfsrSeq_length (n : Nat) : ∀ r, (lfsrSeq n r).length = n := by
  induction n with
  | zero => exact fun r => rfl
  | succ n ih => exact fun r => congrArg Nat.succ (ih (lfsrNext r))

theorem scrambleSeq_length (p : Params) (key : BitVec 32) (n : Nat) : (scrambleSeq p key n).length = n := by
  unfold scrambleSeq
  split
  · exact lfsrSeq_length n key
  · rw [List.length_map, List.length_range]

@[simp] theorem descramble_length (p : Params) (x : Bits) (key : BitVec 32) : (descramble p x key).length = x.length := by
  rw [descramble, xorBits, List.length_zipWith, scrambleSeq_length, Nat.min_self]

/-- Descrambling is its own inverse, whatever the sequence (41 R160). -/
@[simp] theorem descramble_descramble (p : Params) (x : Bits) (key : BitVec 32) :
    descramble p (descramble p x key) key = x := by
  rw [descramble, descramble_length, descramble]
  exact xorBits_xorBits (scrambleSeq_length p key x.length).symm

/-- Added to the block of zeros, a sequence is itself. -/
theorem xorBits_zeros (s : Bits) : xorBits (List.replicate s.length false) s = s := by
  induction s with
  | nil => rfl
  | cons b s ih => rw [List.length_cons, List.replicate_succ, xorBits, List.zipWith_cons_cons, Bool.false_xor, ← xorBits, ih]

/-- A block of zeros descrambles to the sequence. -/
theorem descramble_zeros (p : Params) (n : Nat) (key : BitVec 32) :
    descramble p (List.replicate n false) key = scrambleSeq p key n := by
  have h := xorBits_zeros (scrambleSeq p key n)
  rw [scrambleSeq_length] at h
  rw [descramble, List.length_replicate, h]

/-- A step of the register: every bit moves down one place, and the feedback enters at the top (41 R160). -/
theorem lfsrNext_getLsbD (r : BitVec 32) (j : Nat) :
    (lfsrNext r).getLsbD j = if j = 31 then lfsrFeedback r else r.getLsbD (j + 1) := by
  have hfeedback : ((BitVec.ofBool (lfsrFeedback r)).setWidth 32 <<< 31).getLsbD j = (decide (j = 31) && lfsrFeedback r) := by
    rw [BitVec.getLsbD_shiftLeft, BitVec.getLsbD_setWidth, BitVec.getLsbD_ofBool]
    by_cases hj : j = 31
    · subst hj; rfl
    · simp [hj]; omega
  rw [lfsrNext, BitVec.getLsbD_or, BitVec.getLsbD_ushiftRight, hfeedback, Nat.add_comm 1 j]
  by_cases hj : j = 31
  · subst hj
    rw [BitVec.getLsbD_of_ge r 32 (Nat.le_refl 32), if_pos rfl, decide_eq_true rfl, Bool.true_and, Bool.false_or]
  · rw [if_neg hj, decide_eq_false hj, Bool.false_and, Bool.or_false]

/-- Bit `i` of the sequence is the feedback of the register after `i` steps. -/
theorem lfsrSeq_getElem? : ∀ {n i : Nat} (r : BitVec 32), i < n → (lfsrSeq n r)[i]? = some (lfsrFeedback (lfsrNext^[i] r))
  | _ + 1, 0, _, _ => rfl
  | _ + 1, _ + 1, r, h => lfsrSeq_getElem? (lfsrNext r) (Nat.lt_of_succ_lt_succ h)

/-- The register after `i` steps: the seed moved down, and above it the last bits of the sequence. -/
theorem iterate_lfsrNext_getLsbD (r : BitVec 32) (i : Nat) : ∀ t, 1 ≤ t → t ≤ 32 →
    (lfsrNext^[i] r).getLsbD (32 - t) =
      if t ≤ i then lfsrFeedback (lfsrNext^[i - t] r) else r.getLsbD (32 - t + i) := by
  induction i with
  | zero => intro t h1 _; rw [if_neg (by omega)]; rfl
  | succ i ih =>
    intro t h1 h32
    rw [Function.iterate_succ_apply', lfsrNext_getLsbD]
    rcases Nat.eq_or_lt_of_le h1 with rfl | h
    · rw [if_pos rfl, if_pos (Nat.le_add_left 1 i), Nat.add_sub_cancel]
    · obtain ⟨t, rfl⟩ : ∃ t', t = t' + 1 := ⟨t - 1, by omega⟩
      rw [if_neg (by omega), show 32 - (t + 1) + 1 = 32 - t by omega, ih t (by omega) (by omega), Nat.add_sub_add_right]
      exact if_congr Nat.add_le_add_iff_right.symm rfl (congrArg r.getLsbD (by omega))

/-- Each bit of the default sequence is the sum of the bits before it at the taps, the seed's bits before the first (41 R160). -/
theorem lfsrSeq_taps (key : BitVec 32) {n i : Nat} (hi : i < n) :
    (lfsrSeq n key)[i]? = some ([32, 26, 23, 22, 16, 12, 11, 10, 8, 7, 5, 4, 2, 1].foldl
      (fun b t => b ^^ (if t ≤ i then (lfsrSeq n key).getD (i - t) false else key.getLsbD (32 - t + i))) false) := by
  have htap (t : Nat) (h1 : 1 ≤ t) (h32 : t ≤ 32) : (lfsrNext^[i] key).getLsbD (32 - t) =
      if t ≤ i then (lfsrSeq n key).getD (i - t) false else key.getLsbD (32 - t + i) := by
    rw [iterate_lfsrNext_getLsbD key i t h1 h32, List.getD_eq_getElem?_getD, lfsrSeq_getElem? key (by omega), Option.getD_some]
  have hpos : [0, 6, 9, 10, 16, 20, 21, 22, 24, 25, 27, 28, 30, 31] =
      [32, 26, 23, 22, 16, 12, 11, 10, 8, 7, 5, 4, 2, 1].map (32 - ·) := rfl
  rw [lfsrSeq_getElem? key hi, lfsrFeedback, hpos, List.foldl_map]
  refine congrArg some (List.foldl_ext _ _ _ fun b t ht => ?_)
  have hrange : ∀ t ∈ [32, 26, 23, 22, 16, 12, 11, 10, 8, 7, 5, 4, 2, 1], 1 ≤ t ∧ t ≤ 32 := by decide
  rw [htap t (hrange t ht).1 (hrange t ht).2]

/-- Settles O25: descrambling is its own inverse; the block of zeros shows the sequence, which its taps give. -/
theorem descrambleSequence : Obligations.DescrambleSequence := by
  refine ⟨fun x key s => ⟨descramble s.params x key, descramble_length .., answer_next.mpr rfl, ?undone⟩,
    fun key n i s hi hdefault => ⟨lfsrSeq n key, ?sequence, lfsrSeq_taps key hi⟩⟩
  case undone => exact answer_next.mpr (by rw [descramble_descramble])
  case sequence => exact answer_next.mpr (by rw [descramble_zeros, scrambleSeq, hdefault])

/-! ### The deinterleaver -/

/-- The position `DEINTERLEAVE` takes bit `j` from (41 R161). -/
def deinterleavePos (size : BlockSize) (j : Nat) : Nat := blockA size * (j + 1) % blockK size

theorem deinterleavePos_lt (size : BlockSize) (j : Nat) : deinterleavePos size j < blockK size :=
  Nat.mod_lt _ (by cases size <;> decide)

/-- The step `a` is prime to the length `K`, so no position is taken twice. -/
theorem deinterleavePos_injOn (size : BlockSize) : ∀ i ∈ List.range (blockK size), ∀ j ∈ List.range (blockK size),
    deinterleavePos size i = deinterleavePos size j → i = j := by
  intro i hi j hj h
  have hcoprime : Nat.gcd (blockK size) (blockA size) = 1 := by cases size <;> rfl
  have hmod : i + 1 ≡ j + 1 [MOD blockK size] := Nat.ModEq.cancel_left_of_coprime hcoprime h
  exact (Nat.ModEq.add_right_cancel' 1 hmod).eq_of_lt_of_lt (List.mem_range.mp hi) (List.mem_range.mp hj)

theorem map_deinterleavePos_perm (size : BlockSize) :
    ((List.range (blockK size)).map (deinterleavePos size)).Perm (List.range (blockK size)) := by
  refine (List.subperm_of_subset ?_ ?_).perm_of_length_le ?_
  · exact List.Nodup.map_on (deinterleavePos_injOn size) List.nodup_range
  · intro p hp
    obtain ⟨j, -, rfl⟩ := List.mem_map.mp hp
    exact List.mem_range.mpr (deinterleavePos_lt size j)
  · rw [List.length_map]

theorem deinterleave_length (size : BlockSize) (x : Bits) : (deinterleave size x).length = blockK size := by
  rw [deinterleave, List.length_map, List.length_range]

theorem deinterleave_getElem? {size : BlockSize} {x : Bits} (hx : x.length = blockK size) {j : Nat} (hj : j < blockK size) :
    (deinterleave size x)[j]? = x[deinterleavePos size j]? := by
  have hpos : deinterleavePos size j < x.length := hx ▸ deinterleavePos_lt size j
  rw [deinterleave, List.getElem?_map, List.getElem?_range hj, Option.map_some, List.getElem?_eq_getElem hpos,
    List.getElem_eq_getD false, deinterleavePos]

/-- A vector is its bits in the order of their positions. -/
theorem map_getD_range (x : Bits) : (List.range x.length).map (x.getD · false) = x := by
  refine List.ext_getElem (by simp) fun i hi hi' => ?_
  rw [List.getElem_map, List.getElem_range, List.getElem_eq_getD]

/-- The deinterleaver permutes the block: it takes every position once. -/
theorem deinterleave_perm {size : BlockSize} {x : Bits} (hx : x.length = blockK size) : (deinterleave size x).Perm x := by
  have hperm := (map_deinterleavePos_perm size).map (x.getD · false)
  rwa [List.map_map, ← hx, map_getD_range, hx] at hperm

/-- Writing other positions leaves a bit alone. -/
theorem foldl_set_getElem?_of_ne {f : Nat → Nat} {g : Nat → Bool} {p : Nat} {l : List Nat} : ∀ z : Bits,
    (∀ j ∈ l, f j ≠ p) → (l.foldl (fun z j => z.set (f j) (g j)) z)[p]? = z[p]? := by
  induction l with
  | nil => exact fun z _ => rfl
  | cons i l ih =>
    intro z h
    obtain ⟨hi, hl⟩ := List.forall_mem_cons.mp h
    rw [List.foldl_cons, ih _ hl, List.getElem?_set_ne hi]

/-- Of writes at different positions each one stands. -/
theorem foldl_set_getElem? {f : Nat → Nat} {g : Nat → Bool} {l : List Nat} : ∀ z : Bits, l.Nodup →
    (∀ i ∈ l, ∀ j ∈ l, f i = f j → i = j) → ∀ j ∈ l, f j < z.length →
    (l.foldl (fun z j => z.set (f j) (g j)) z)[f j]? = some (g j) := by
  induction l with
  | nil => exact fun z _ _ j hj => absurd hj List.not_mem_nil
  | cons i l ih =>
    intro z hnodup hinj j hj hlt
    obtain ⟨hi, hnodup⟩ := List.nodup_cons.mp hnodup
    rw [List.foldl_cons]
    rcases List.mem_cons.mp hj with rfl | hj'
    · rw [foldl_set_getElem?_of_ne _ fun k hk h => hi (hinj k (.tail _ hk) _ (.head _) h ▸ hk), List.getElem?_set_self hlt]
    · exact ih _ hnodup (fun a ha b hb => hinj a (.tail _ ha) b (.tail _ hb)) j hj' (by rwa [List.length_set])

theorem foldl_set_length {f : Nat → Nat} {g : Nat → Bool} {l : List Nat} : ∀ z : Bits,
    (l.foldl (fun z j => z.set (f j) (g j)) z).length = z.length := by
  induction l with
  | nil => exact fun z => rfl
  | cons i l ih => intro z; rw [List.foldl_cons, ih, List.length_set]

theorem interleave_length (size : BlockSize) (x : Bits) : (interleave size x).length = blockK size := by
  rw [interleave, foldl_set_length, List.length_replicate]

theorem interleave_getElem? {size : BlockSize} {x : Bits} (hx : x.length = blockK size) {j : Nat} (hj : j < blockK size) :
    (interleave size x)[deinterleavePos size j]? = x[j]? := by
  have hj' : j < x.length := hx.symm ▸ hj
  rw [List.getElem?_eq_getElem hj', List.getElem_eq_getD false]
  exact foldl_set_getElem? (f := deinterleavePos size) _ List.nodup_range (deinterleavePos_injOn size) j
    (List.mem_range.mpr hj) (by rw [List.length_replicate]; exact deinterleavePos_lt size j)

/-- The deinterleaver undoes the test encoder's interleaver (41 R161, 95 section 0.3). -/
theorem deinterleave_interleave {size : BlockSize} {x : Bits} (hx : x.length = blockK size) :
    deinterleave size (interleave size x) = x := by
  refine List.ext_getElem? fun j => ?_
  rcases Nat.lt_or_ge j (blockK size) with hj | hj
  · rw [deinterleave_getElem? (interleave_length size x) hj, interleave_getElem? hx hj]
  · rw [List.getElem?_eq_none (by rwa [deinterleave_length]), List.getElem?_eq_none (by rwa [hx])]

/-- On a block of its length `DEINTERLEAVE` answers the permuted block. -/
theorem exec_deinterleave {size : BlockSize} {x : Bits} (s : State) (hx : x.length = blockK size) :
    exec (.deinterleave x size) s = .next (s.returns (.bits (deinterleave size x))) :=
  inDomain_next.mpr ⟨beq_iff_eq.mpr hx, answer_next.mpr rfl⟩

/-- Settles O26, for each of the three sizes by the facts about every size. -/
theorem deinterleavePermutes : Obligations.DeinterleavePermutes := by
  have hsizes : ∀ p ∈ [(BlockSize.k120, 120, 11), (.k216, 216, 101), (.k432, 432, 103)],
      p.2.1 = blockK p.1 ∧ p.2.2 = blockA p.1 := by decide
  intro p hp x s
  obtain ⟨hK, ha⟩ := hsizes p hp
  rw [hK, ha]
  refine ⟨fun hx => ⟨_, exec_deinterleave s hx, deinterleave_length p.1 x, fun j hj => deinterleave_getElem? hx hj,
    deinterleave_perm hx, ?undone⟩, fun hx => inDomain_refused (beq_eq_false_iff_ne.mpr hx)⟩
  case undone => rw [exec_deinterleave s (interleave_length p.1 x), deinterleave_interleave hx]

/-! ### The Reed-Muller decoder -/

/-- A vector as a word and back (00 R10). -/
theorem bvToBits_ofNat_bitsToNat {k : Nat} {v : Bits} (hv : v.length = k) : bvToBits (BitVec.ofNat k (bitsToNat v)) = v := by
  subst hv
  rw [bvToBits, BitVec.toNat_ofNat, Nat.mod_eq_of_lt (bitsToNat_lt v), natToBits_bitsToNat]

theorem ofNat_bitsToNat_bvToBits {k : Nat} (x : BitVec k) : BitVec.ofNat k (bitsToNat (bvToBits x)) = x := by
  rw [bitsToNat_bvToBits, BitVec.ofNat_toNat, BitVec.setWidth_eq]

/-- The decoder gives back the message of a code word, by its contract (41 R166). -/
theorem rmDecode_rmEncodeBits {m : Bits} (hm : m.length = 14) : rmDecode (rmEncodeBits m) = m := by
  rw [rmDecode, rmEncodeBits, ofNat_bitsToNat_bvToBits, Config.rmCode.correct, bvToBits_ofNat_bitsToNat hm]

/-- The code is linear: the message of zeros has the code word of zeros, whatever the matrix (41 R165). -/
theorem rmEncode_zero (gen : Fin 14 → BitVec 30) : rmEncode gen 0 = 0 :=
  List.foldl_fixed' (fun i => by simp) _

theorem bvToBits_zero (k : Nat) : bvToBits (0 : BitVec k) = List.replicate k false := by
  have h (n : Nat) : natToBits n 0 = List.replicate n false := by
    induction n with
    | zero => rfl
    | succ n ih => rw [natToBits, ih, Nat.zero_testBit, List.replicate_succ]
  exact h k

theorem rmEncodeBits_zeros : rmEncodeBits (List.replicate 14 false) = List.replicate 30 false := by
  rw [rmEncodeBits, ← bvToBits_zero 14, ofNat_bitsToNat_bvToBits, rmEncode_zero, bvToBits_zero]

/-- On 30 bits `RM_DECODE` answers the decoder's message. -/
theorem exec_rmDecode {c : Bits} (s : State) (hc : c.length = 30) :
    exec (.rmDecode c) s = .next (s.returns (.bits (rmDecode c))) :=
  inDomain_next.mpr ⟨beq_iff_eq.mpr hc, answer_next.mpr rfl⟩

/-- On 30 bits `AACH_DECODE_BLOCK` answers the message of the descrambled block (44 R248). -/
theorem exec_aachDecodeBlock {x : Bits} (key : BitVec 32) (s : State) (hx : x.length = 30) :
    exec (.aachDecodeBlock x key) s = .next (s.returns (.bits (rmDecode (descramble s.params x key)))) :=
  inDomain_next.mpr ⟨beq_iff_eq.mpr hx, answer_next.mpr rfl⟩

/-- Settles O30: the decoder's contract, the linearity of the code, and descrambling as its own inverse. -/
theorem reedMullerRecoversCodewords : Obligations.ReedMullerRecoversCodewords := by
  have hlen (m : Bits) : (rmEncodeBits m).length = 30 := bvToBits_length _
  refine ⟨fun m s => ⟨fun hm => ?message, ?zeros⟩, fun m key s hm => ?aach⟩
  case message => rw [exec_rmDecode s (hlen m), rmDecode_rmEncodeBits hm]
  case zeros =>
    rw [exec_rmDecode s List.length_replicate, ← rmEncodeBits_zeros, rmDecode_rmEncodeBits List.length_replicate]
  case aach =>
    rw [aachEncode, exec_aachDecodeBlock key s ((descramble_length ..).trans (hlen m)), descramble_descramble,
      rmDecode_rmEncodeBits hm]

end Sys2Proof.Machine
end

section
/-! The CRC (family 41_block_codes): the register as a polynomial over GF(2), and the check as divisibility by the generator polynomial. -/

namespace Sys2Proof.Machine

open Polynomial

/-! ### Vectors as polynomials -/

/-- A vector as a polynomial over GF(2), its first bit the highest coefficient (41 R167). -/
noncomputable def bitPoly (v : Bits) : (ZMod 2)[X] := v.foldl (fun p b => p * X + if b then 1 else 0) 0

theorem bitPoly_concat (v : Bits) (b : Bool) : bitPoly (v ++ [b]) = bitPoly v * X + if b then 1 else 0 :=
  List.foldl_concat ..

theorem bitPoly_append (u v : Bits) : bitPoly (u ++ v) = bitPoly u * X ^ v.length + bitPoly v := by
  induction v using List.reverseRecOn with
  | nil => simp [bitPoly]
  | append_singleton v b ih =>
    rw [← List.append_assoc, bitPoly_concat, bitPoly_concat, ih, List.length_append, List.length_singleton, pow_succ]
    ring

theorem bitPoly_singleton (b : Bool) : bitPoly [b] = if b then 1 else 0 := by
  rw [← List.nil_append [b], bitPoly_concat, bitPoly, List.foldl_nil, zero_mul, zero_add]

theorem bitPoly_cons (b : Bool) (v : Bits) : bitPoly (b :: v) = (if b then 1 else 0) * X ^ v.length + bitPoly v := by
  rw [← List.singleton_append, bitPoly_append, bitPoly_singleton]

/-- Over GF(2) the sum of bits is XOR. -/
theorem bitTerm_xor (a b : Bool) :
    (if a ^^ b then 1 else 0 : (ZMod 2)[X]) = (if a then 1 else 0) + if b then 1 else 0 := by
  cases a <;> cases b <;> simp [CharTwo.add_self_eq_zero]

/-- The sum of vectors is the sum of polynomials. -/
theorem bitPoly_xor {u : Bits} : ∀ {v : Bits}, u.length = v.length →
    bitPoly (List.zipWith Bool.xor u v) = bitPoly u + bitPoly v := by
  induction u with
  | nil => rintro v hl; obtain rfl := List.length_eq_zero_iff.mp hl.symm; simp [bitPoly]
  | cons a u ih =>
    rintro (_ | ⟨b, v⟩) hl
    · cases hl
    · have hl' : u.length = v.length := Nat.succ.inj hl
      rw [List.zipWith_cons_cons, bitPoly_cons, bitPoly_cons, bitPoly_cons, ih hl', List.length_zipWith, hl', Nat.min_self,
        bitTerm_xor]
      ring

theorem bitPoly_degree_lt (v : Bits) : (bitPoly v).degree < v.length := by
  induction v with
  | nil => simp [bitPoly]
  | cons b v ih =>
    rw [bitPoly_cons, List.length_cons]
    refine (degree_add_le _ _).trans_lt (max_lt ?_ (ih.trans (by exact_mod_cast Nat.lt_succ_self v.length)))
    cases b
    · simp
    · rw [if_pos rfl, one_mul, degree_X_pow]
      exact_mod_cast Nat.lt_succ_self v.length

theorem coeff_zero_bitPoly_concat (v : Bits) (b : Bool) : (bitPoly (v ++ [b])).coeff 0 = if b then 1 else 0 := by
  rw [bitPoly_concat, coeff_add, coeff_mul_X_zero, zero_add]
  cases b <;> simp

/-- Vectors of one length and one polynomial are the same. -/
theorem eq_of_bitPoly_eq {u : Bits} : ∀ {v : Bits}, u.length = v.length → bitPoly u = bitPoly v → u = v := by
  induction u using List.reverseRecOn with
  | nil => intro v hl _; exact (List.length_eq_zero_iff.mp hl.symm).symm
  | append_singleton u a ih =>
    intro v hl h
    rcases List.eq_nil_or_concat' v with rfl | ⟨v, b, rfl⟩
    · simp at hl
    · have hab : a = b := by
        have h0 := congrArg (coeff · 0) h
        simp only [coeff_zero_bitPoly_concat] at h0
        cases a <;> cases b <;> simp at h0 ⊢
      subst hab
      rw [bitPoly_concat, bitPoly_concat] at h
      have huv : bitPoly u = bitPoly v := mul_right_cancel₀ X_ne_zero (add_right_cancel h)
      rw [ih (by simpa using hl) huv]

/-! ### Words as vectors -/

theorem natToBits_xor (k m n : Nat) : natToBits k (m ^^^ n) = List.zipWith Bool.xor (natToBits k m) (natToBits k n) := by
  induction k with
  | zero => rfl
  | succ k ih => rw [natToBits, natToBits, natToBits, List.zipWith_cons_cons, ih, Nat.testBit_xor]

theorem bvToBits_xor {k : Nat} (x y : BitVec k) :
    bvToBits (x ^^^ y) = List.zipWith Bool.xor (bvToBits x) (bvToBits y) := natToBits_xor k x.toNat y.toNat

theorem natToBits_double (k n : Nat) : natToBits (k + 1) (2 * n) = natToBits k n ++ [false] := by
  induction k with
  | zero => simp [natToBits]
  | succ k ih =>
    have hbit : (2 * n).testBit (k + 1) = n.testBit k := by rw [Nat.testBit_succ, Nat.mul_div_cancel_left n Nat.two_pos]
    rw [natToBits, ih, natToBits, List.cons_append, hbit]

/-- Bits above the low `k` do not matter to them. -/
theorem natToBits_mod (n : Nat) : ∀ {k l : Nat}, k ≤ l → natToBits k (n % 2 ^ l) = natToBits k n
  | 0, _, _ => rfl
  | k + 1, l, h => by
    rw [natToBits, natToBits, natToBits_mod n (Nat.le_of_succ_le h), Nat.testBit_mod_two_pow,
      decide_eq_true (Nat.lt_of_succ_le h), Bool.true_and]

/-- A word's bits: the top one, and those a shift moves up. -/
theorem bvToBits_succ {k : Nat} (r : BitVec (k + 1)) : bvToBits r = r.msb :: natToBits k r.toNat := by
  rw [bvToBits, natToBits, BitVec.msb_eq_getLsbD_last, Nat.add_sub_cancel, BitVec.testBit_toNat]

theorem bvToBits_shiftLeft_one {k : Nat} (r : BitVec (k + 1)) : bvToBits (r <<< 1) = natToBits k r.toNat ++ [false] := by
  rw [bvToBits, BitVec.toNat_shiftLeft, natToBits_mod _ (Nat.le_refl _), Nat.shiftLeft_eq, pow_one, Nat.mul_comm,
    natToBits_double]

/-! ### The register -/

/-- The generator polynomial of the CRC (41 R167). -/
noncomputable def crcGenerator : (ZMod 2)[X] := X ^ 16 + X ^ 12 + X ^ 5 + 1

theorem degree_crcGenerator : crcGenerator.degree = 16 := by
  unfold crcGenerator
  compute_degree!

/-- The CRC register as a polynomial (41 R167). -/
noncomputable def regPoly (r : BitVec 16) : (ZMod 2)[X] := bitPoly (bvToBits r)

theorem regPoly_xor (x y : BitVec 16) : regPoly (x ^^^ y) = regPoly x + regPoly y := by
  rw [regPoly, bvToBits_xor, bitPoly_xor (by rw [bvToBits_length, bvToBits_length]), regPoly, regPoly]

/-- The word `0x1021` holds the generator's lower terms. -/
theorem regPoly_feedback : regPoly 0x1021#16 = X ^ 12 + X ^ 5 + 1 := by
  have hbits : bvToBits 0x1021#16 =
      [false, false, false, true, false, false, false, false, false, false, true, false, false, false, false, true] := by
    decide
  simp [regPoly, hbits, bitPoly]
  ring

/-- A shift multiplies by `X`; the bit that falls out is the term of `X ^ 16`. -/
theorem regPoly_shiftLeft (r : BitVec 16) :
    regPoly (r <<< 1) = regPoly r * X + (if r.msb then 1 else 0) * X ^ 16 := by
  rw [regPoly, bvToBits_shiftLeft_one, bitPoly_concat, regPoly, bvToBits_succ, bitPoly_cons, natToBits_length,
    if_neg Bool.false_ne_true, add_zero]
  linear_combination (-(if r.msb then 1 else 0) * X ^ 16) * CharTwo.two_eq_zero (R := (ZMod 2)[X])

/-- One bit through the register: the register times `X` and the bit's `X ^ 16`, the generator added where the feedback is on (41 R167). -/
theorem regPoly_crcBit (r : BitVec 16) (x : Bool) :
    regPoly (crcBit r x) =
      regPoly r * X + (if x then 1 else 0) * X ^ 16 + (if r.msb ^^ x then 1 else 0) * crcGenerator := by
  have hstep : regPoly (crcBit r x) = regPoly (r <<< 1) + (if r.msb ^^ x then 1 else 0) * (X ^ 12 + X ^ 5 + 1) := by
    unfold crcBit
    split
    next => rw [regPoly_xor, regPoly_feedback, one_mul]
    next => rw [zero_mul, add_zero]
  rw [hstep, regPoly_shiftLeft, bitTerm_xor, crcGenerator]
  linear_combination (-(if x then 1 else 0) * X ^ 16) * CharTwo.two_eq_zero (R := (ZMod 2)[X])

/-- A message through the register: up to a multiple of the generator, the message times `X ^ 16`, with the initial value at its head (41 R167). -/
theorem regPoly_foldl_crcBit (m : Bits) : ∀ r : BitVec 16, ∃ q,
    bitPoly m * X ^ 16 + regPoly r * X ^ m.length = regPoly (m.foldl crcBit r) + q * crcGenerator := by
  induction m with
  | nil => intro r; exact ⟨0, by simp [bitPoly]⟩
  | cons x m ih =>
    intro r
    obtain ⟨q, hq⟩ := ih (crcBit r x)
    refine ⟨q - (if r.msb ^^ x then 1 else 0) * X ^ m.length, ?_⟩
    rw [regPoly_crcBit] at hq
    rw [List.foldl_cons, bitPoly_cons, List.length_cons]
    linear_combination hq

/-! ### The check -/

/-- The last 16 bits pass where they are the CRC of the rest (41 R167). -/
theorem crc16Check_append {xorout : BitVec 16} (m : Bits) {c : Bits} (hc : c.length = 16) :
    crc16Check xorout (m ++ c) = decide (c = bvToBits (crc16 xorout m)) := by
  have hcut : (m ++ c).length - 16 = m.length := by rw [List.length_append, hc, Nat.add_sub_cancel]
  rw [crc16Check, hcut, List.take_left, List.drop_left, ← bitsToNat_bvToBits]
  refine decide_eq_decide.mpr ⟨fun h => ?_, fun h => h ▸ rfl⟩
  exact (eq_of_bitsToNat_eq ((bvToBits_length _).trans hc.symm) h).symm

theorem exec_crc16Check {m c : Bits} (s : State) (hc : c.length = 16) :
    exec (.crc16Check (m ++ c)) s =
      .next (s.returns (.flag (decide (c = bvToBits (crc16 s.params.crcXorout m))))) := by
  have hdomain : 16 ≤ (m ++ c).length := by rw [List.length_append, hc]; exact Nat.le_add_left ..
  exact inDomain_next.mpr ⟨decide_eq_true hdomain, answer_next.mpr (by rw [crc16Check_append m hc])⟩

/-- The final XOR may be undone in the transmitted bits instead. -/
theorem eq_crc16_iff (xorout : BitVec 16) (m : Bits) {c : Bits} (hc : c.length = 16) :
    c = bvToBits (crc16 xorout m) ↔ xorBits c (bvToBits xorout) = bvToBits (m.foldl crcBit 0xFFFF#16) := by
  have hundo : xorBits (xorBits c (bvToBits xorout)) (bvToBits xorout) = c :=
    xorBits_xorBits (hc.trans (bvToBits_length _).symm)
  have hundo' : xorBits (xorBits (bvToBits (m.foldl crcBit 0xFFFF#16)) (bvToBits xorout)) (bvToBits xorout) =
      bvToBits (m.foldl crcBit 0xFFFF#16) := xorBits_xorBits (by rw [bvToBits_length, bvToBits_length])
  rw [crc16, bvToBits_xor, ← xorBits]
  constructor
  · rintro rfl
    exact hundo'
  · intro h
    rw [← h, hundo]

/-- Of two words' polynomials the generator divides the sum only where they are the same: a remainder has less than its degree. -/
theorem crcGenerator_dvd_add {u v : Bits} (hu : u.length = 16) (hv : v.length = 16) :
    crcGenerator ∣ bitPoly u + bitPoly v ↔ u = v := by
  constructor
  · intro h
    have hlt {w : Bits} (hw : w.length = 16) : (bitPoly w).degree < 16 := (bitPoly_degree_lt w).trans_eq (by rw [hw]; rfl)
    have hdegree : (bitPoly u + bitPoly v).degree < crcGenerator.degree := by
      rw [degree_crcGenerator]
      exact (degree_add_le _ _).trans_lt (max_lt (hlt hu) (hlt hv))
    exact eq_of_bitPoly_eq (hu.trans hv.symm) (CharTwo.add_eq_zero.mp (eq_zero_of_dvd_of_degree_lt h hdegree))
  · rintro rfl
    rw [CharTwo.add_self_eq_zero]
    exact dvd_zero _

/-- The CRC by its polynomial: the last bits are the register's after the message exactly where the generator divides the whole block, with the initial value at its head (41 R167). -/
theorem crcGenerator_dvd_block (m : Bits) {c : Bits} (hc : c.length = 16) (r : BitVec 16) :
    crcGenerator ∣ bitPoly (m ++ c) + regPoly r * X ^ m.length ↔ c = bvToBits (m.foldl crcBit r) := by
  obtain ⟨q, hq⟩ := regPoly_foldl_crcBit m r
  have hblock : bitPoly (m ++ c) + regPoly r * X ^ m.length =
      q * crcGenerator + (bitPoly c + bitPoly (bvToBits (m.foldl crcBit r))) := by
    rw [bitPoly_append, hc, ← regPoly]
    linear_combination hq
  rw [hblock, dvd_add_right (Dvd.intro_left q rfl), crcGenerator_dvd_add hc (bvToBits_length _)]

/-- Settles O31: the comparison of the last 16 bits, and the register's polynomial up to multiples of the generator. -/
theorem crcComparesTrailingBits : Obligations.CrcComparesTrailingBits := by
  refine ⟨fun m c s => ⟨exec_crc16Check s, fun hm => ?refuses⟩, fun m c s hc => ⟨_, exec_crc16Check s hc, ?divides⟩⟩
  case refuses => exact inDomain_refused (decide_eq_false (Nat.not_le.mpr hm))
  case divides =>
    have hxor : (xorBits c (bvToBits s.params.crcXorout)).length = 16 := by
      rw [xorBits, List.length_zipWith, hc, bvToBits_length, Nat.min_self]
    have hones : bvToBits 0xFFFF#16 = List.replicate 16 true := by decide
    have hdivides := crcGenerator_dvd_block m hxor 0xFFFF#16
    rw [regPoly, hones] at hdivides
    rw [decide_eq_true_iff, eq_crc16_iff _ m hc, ← hdivides]
    rfl

end Sys2Proof.Machine
end

section
/-! Cell and time (family 42_cell_and_time): a time by the number of its slot, `TIME_SET` by its two cases, and the default scrambling code as a sum. -/

namespace Sys2Proof.Machine

/-! ### The slots of a hyperframe -/

theorem time_wf_iff {t : TetraTime} :
    t.wf = true ↔ (1 ≤ t.tn ∧ t.tn ≤ 4) ∧ (1 ≤ t.fn ∧ t.fn ≤ 18) ∧ 1 ≤ t.mn ∧ t.mn ≤ 60 := by
  simp only [TetraTime.wf, Bool.and_eq_true, decide_eq_true_eq, and_assoc]

theorem slotNumber_lt {t : TetraTime} (h : t.wf = true) : slotNumber t < 4320 := by
  obtain ⟨htn, hfn, hmn⟩ := time_wf_iff.mp h
  unfold slotNumber
  omega

/-- The slot number is a mixed-radix number whose digits are the components less one. -/
theorem eq_of_slotNumber_eq {t u : TetraTime} (ht : t.wf = true) (hu : u.wf = true)
    (h : slotNumber t = slotNumber u) : t = u := by
  obtain ⟨tn, fn, mn⟩ := t
  obtain ⟨tn', fn', mn'⟩ := u
  have hdt := time_wf_iff.mp ht
  have hdu := time_wf_iff.mp hu
  simp only [slotNumber] at h hdt hdu
  rw [TetraTime.mk.injEq]
  omega

/-- The number goes up by one in each of the cases of the carry, and back to 0 from the last slot. -/
theorem slotNumber_timeNext {t : TetraTime} (h : t.wf = true) :
    slotNumber (timeNext t) = (slotNumber t + 1) % 4320 := by
  obtain ⟨htn, hfn, hmn⟩ := time_wf_iff.mp h
  unfold timeNext
  split_ifs with hslot hframe hmultiframe <;> simp only [slotNumber] <;> omega

theorem timeNext_iterate_wf {t : TetraTime} (h : t.wf = true) (k : Nat) : (timeNext^[k] t).wf = true :=
  Function.Iterate.rec (fun u : TetraTime => u.wf = true) h (fun _ => timeNext_wf) k

theorem slotNumber_timeNext_iterate {t : TetraTime} (h : t.wf = true) (k : Nat) :
    slotNumber (timeNext^[k] t) = (slotNumber t + k) % 4320 := by
  induction k with
  | zero => exact (Nat.mod_eq_of_lt (slotNumber_lt h)).symm
  | succ k ih =>
    rw [Function.iterate_succ_apply', slotNumber_timeNext (timeNext_iterate_wf h k), ih, Nat.mod_add_mod, Nat.add_assoc]

theorem timeNext_iterate_eq_iff {t : TetraTime} (h : t.wf = true) (k : Nat) : timeNext^[k] t = t ↔ 4320 ∣ k := by
  have hnum := slotNumber_timeNext_iterate h k
  have hlt := slotNumber_lt h
  constructor
  · intro heq
    rw [heq] at hnum
    omega
  · intro hdvd
    exact eq_of_slotNumber_eq (timeNext_iterate_wf h k) h (by omega)

/-- Settles O32: the state `TIME_INC` leaves differs in the time alone, and that is the next slot's. -/
theorem timeIncIsNextSlot : Obligations.TimeIncIsNextSlot := fun s h =>
  ⟨timeNext s.time, answer_next.mpr rfl, timeNext_wf h, slotNumber_timeNext h⟩

/-- Settles O33: the increments that return to the start are the multiples of the number of slots. -/
theorem timePeriod : Obligations.TimePeriod := fun _ h =>
  ⟨(timeNext_iterate_eq_iff h 4320).mpr dvd_rfl,
    fun k hpos hlt heq => Nat.not_dvd_of_pos_of_lt hpos hlt ((timeNext_iterate_eq_iff h k).mp heq)⟩

/-! ### The scrambling code -/

/-- A word put above `k` low bits, where it has room. -/
theorem toNat_setWidth_shiftLeft {w v k : Nat} (x : BitVec w) (hroom : w + k ≤ v) :
    (x.setWidth v <<< k).toNat = x.toNat <<< k := by
  have hw : x.toNat < 2 ^ v := x.isLt.trans_le (Nat.pow_le_pow_right Nat.two_pos (by omega))
  have hshift : x.toNat <<< k < 2 ^ v :=
    (Nat.shiftLeft_lt x.isLt).trans_le (Nat.pow_le_pow_right Nat.two_pos hroom)
  rw [BitVec.toNat_shiftLeft, BitVec.toNat_setWidth, Nat.mod_eq_of_lt hw, Nat.mod_eq_of_lt hshift]

/-- The parts stand below each other, so that their disjunction is their sum (42 R205). -/
theorem toNat_extendedColourCode (mcc : BitVec 10) (mnc : BitVec 14) (cc : BitVec 6) :
    (extendedColourCode mcc mnc cc).toNat = mcc.toNat * 2 ^ 22 + mnc.toNat * 2 ^ 8 + cc.toNat * 4 + 3 := by
  have hcc : cc.toNat <<< 2 + 3 < 2 ^ 8 := by have := cc.isLt; omega
  have hmnc : mnc.toNat <<< 8 + (cc.toNat <<< 2 + 3) < 2 ^ 22 := by have := mnc.isLt; omega
  calc (extendedColourCode mcc mnc cc).toNat
      = mcc.toNat <<< 22 ||| (mnc.toNat <<< 8 ||| (cc.toNat <<< 2 ||| 3)) := by
        rw [extendedColourCode, BitVec.toNat_or, BitVec.toNat_or, BitVec.toNat_or, toNat_setWidth_shiftLeft mcc (by decide),
          toNat_setWidth_shiftLeft mnc (by decide), toNat_setWidth_shiftLeft cc (by decide), Nat.or_assoc, Nat.or_assoc,
          BitVec.toNat_ofNat, Nat.mod_eq_of_lt (by decide : 3 < 2 ^ 32)]
    _ = mcc.toNat <<< 22 + (mnc.toNat <<< 8 + (cc.toNat <<< 2 + 3)) := by
        rw [← Nat.shiftLeft_add_eq_or_of_lt (by decide : 3 < 2 ^ 2), ← Nat.shiftLeft_add_eq_or_of_lt hcc,
          ← Nat.shiftLeft_add_eq_or_of_lt hmnc]
    _ = mcc.toNat * 2 ^ 22 + mnc.toNat * 2 ^ 8 + cc.toNat * 4 + 3 := by
        simp only [Nat.shiftLeft_eq]
        omega

theorem scrambleInit_default {p : Params} (hp : p.scrambleInit = .default) (mcc : BitVec 10) (mnc : BitVec 14)
    (cc : BitVec 6) : scrambleInit p mcc mnc cc = extendedColourCode mcc mnc cc := by
  rw [scrambleInit, hp]

/-! ### `TIME_SET` -/

theorem timeSet_of_inRange (tnCode : Nat) {fn mn : Nat} (s : State) (h : 1 ≤ fn ∧ fn ≤ 18 ∧ 1 ≤ mn ∧ mn ≤ 60) :
    timeSet tnCode fn mn s = s.setTime ⟨tnCode + 1, fn, mn⟩ := if_pos h

theorem timeSet_of_outOfRange (tnCode : Nat) {fn mn : Nat} (s : State) (h : ¬(1 ≤ fn ∧ fn ≤ 18 ∧ 1 ≤ mn ∧ mn ≤ 60)) :
    timeSet tnCode fn mn s = s.log (.timeInvalid (tnCode + 1) fn mn) := if_neg h

/-- Settles O34: `TIME_SET` by its two cases, the default code by the sum of its parts. -/
theorem timeSetAndScrambleInit : Obligations.TimeSetAndScrambleInit := by
  refine ⟨fun tnCode fn mn s => ⟨fun hfn hfn' hmn hmn' => ?sets, fun hout => ?refuses⟩,
    fun mcc mnc cc s hp => ⟨extendedColourCode mcc mnc cc, ?code, toNat_extendedColourCode mcc mnc cc⟩⟩
  case sets => exact answer_next.mpr (by rw [timeSet_of_inRange _ s ⟨hfn, hfn', hmn, hmn'⟩])
  case refuses => exact answer_next.mpr (by rw [timeSet_of_outOfRange _ s (by omega)])
  case code => exact answer_next.mpr (by rw [scrambleInit_default hp])

end Sys2Proof.Machine
end

section
/-! The burst synchronizer (family 43_burst_sync): the match test, the classification of a burst, and what a symbol does to the window and to the counter. -/

namespace Sys2Proof.Machine

/-! ### `SYNC_MATCH` -/

/-- The test of a match, with the head and the tail bit by bit (43 R222). -/
theorem windowMatches_iff {p : Params} {w : Bits} (hl : w.length = burstLen) :
    windowMatches p w = true ↔ w.take 12 = bvToBits p.tsN3Begin ∧
      ((List.range 10).filter fun i => w[500 + i]? != (bvToBits p.tsN3End)[i]?).length < 2 := by
  have hhead : dBegin p w = 0 ↔ w.take 12 = bvToBits p.tsN3Begin :=
    hamming_eq_zero_iff (by rw [slice_length w (by rw [hl]; decide), bvToBits_length])
  have htail : (w.slice 500 510).length = 10 := slice_length w hl.ge
  have hdist : dEnd p w = ((List.range 10).filter fun i => w[500 + i]? != (bvToBits p.tsN3End)[i]?).length := by
    rw [dEnd, hamming_eq_count (by rw [htail, bvToBits_length]), htail]
    refine congrArg List.length (List.filter_congr fun i hi => ?_)
    rw [slice_getElem?, if_pos (List.mem_range.mp hi)]
  rw [windowMatches, Bool.and_eq_true, beq_iff_eq, decide_eq_true_iff, hhead, hdist]

/-- What a match writes, where the counter is wide enough (43 R222; log entry 13). -/
theorem setSynchronized_eq {s : State} (hp : s.params.wf = true) :
    setSynchronized s = s.setSync ⟨true, 25500, s.sync.buffer, false⟩ := by
  rw [setSynchronized, counterLoad_reload hp]

theorem exec_syncMatch {w : Bits} (s : State) (hl : w.length = burstLen) :
    exec (.syncMatch w) s = .next ((syncMatch w s).2.returns (.flag (syncMatch w s).1)) :=
  inDomain_next.mpr ⟨beq_iff_eq.mpr hl, rfl⟩

/-- Settles O18: the two branches of the match. -/
theorem syncMatchTest : Obligations.SyncMatchTest := by
  intro w s hl hp
  rw [exec_syncMatch s hl]
  refine ⟨fun hmatch => ?_, fun hmiss => ?_⟩
  · rw [syncMatch, if_pos ((windowMatches_iff hl).mpr hmatch), setSynchronized_eq hp]
  · rw [syncMatch, if_neg (mt (windowMatches_iff hl).mp hmiss)]

/-! ### `PROCESS_BURST` -/

theorem five_lt_dMin_iff (p : Params) (w : Bits) : 5 < dMin p w ↔ 5 < dSync p w ∧ 5 < dN1 p w ∧ 5 < dN2 p w := by
  rw [dMin, lt_min_iff, lt_min_iff]

/-- The class by comparison of the distances: in a tie the first of SYNC, N1, N2 wins (43 R225). -/
theorem burstClass_eq (p : Params) (w : Bits) :
    burstClass p w =
      if dSync p w ≤ dN1 p w ∧ dSync p w ≤ dN2 p w then .sb else if dN1 p w ≤ dN2 p w then .ndb else .ndbSf := by
  have hsync : dSync p w = dMin p w ↔ dSync p w ≤ dN1 p w ∧ dSync p w ≤ dN2 p w := by
    rw [dMin, eq_comm, min_eq_left_iff, le_min_iff]
  by_cases h : dSync p w ≤ dN1 p w ∧ dSync p w ≤ dN2 p w
  · rw [burstClass, if_pos (hsync.mpr h), if_pos h]
  · have hn1 : dN1 p w = dMin p w ↔ dN1 p w ≤ dN2 p w := by unfold dMin; omega
    rw [burstClass, if_neg (mt hsync.mp h), if_neg h]
    simp only [hn1]

theorem processBurst_of_reject {w : Bits} {s : State} (h : 5 < dMin s.params w) :
    processBurst w s = s.log (.burstReject (dSync s.params w) (dN1 s.params w) (dN2 s.params w)) := if_pos h

theorem processBurst_of_accept {w : Bits} {s : State} (h : ¬ 5 < dMin s.params w) :
    processBurst w s =
      lmacBurst w (burstClass s.params w) (s.setBurst { s.burst with type := burstClass s.params w }) := if_neg h

theorem exec_processBurst {w : Bits} (s : State) (hl : w.length = burstLen) :
    exec (.processBurst w) s = .next ((processBurst w s).returns .none) :=
  inDomain_next.mpr ⟨beq_iff_eq.mpr hl, rfl⟩

theorem exec_lmacBurst {w : Bits} (type : BurstClass) (s : State) (hl : w.length = burstLen) :
    exec (.lmacBurst w type) s = .next ((lmacBurst w type s).returns .none) :=
  inDomain_next.mpr ⟨beq_iff_eq.mpr hl, rfl⟩

/-- Settles O20: the two branches on the smallest distance. -/
theorem processBurstClassifies : Obligations.ProcessBurstClassifies := by
  intro w s hl d0 d1 d2 c
  have hc : burstClass s.params w = c := burstClass_eq s.params w
  refine ⟨fun hfar => ?rejected, fun hnear => ⟨_, exec_lmacBurst c _ hl, ?accepted⟩⟩
  case rejected =>
    rw [exec_processBurst s hl, processBurst_of_reject ((five_lt_dMin_iff _ _).mpr hfar)]
    rfl
  case accepted =>
    have hmin : ¬ 5 < dMin s.params w := fun h => by
      obtain ⟨h0, h1, h2⟩ : 5 < d0 ∧ 5 < d1 ∧ 5 < d2 := (five_lt_dMin_iff _ _).mp h
      omega
    rw [exec_processBurst s hl, processBurst_of_accept hmin, hc]

/-! ### The counter's tick -/

theorem counterTick_of_zero {s : State} (h : s.sync.bitCounter = 0) : counterTick s = s := by
  simp only [counterTick, h]

theorem counterTick_of_one {s : State} (h : s.sync.bitCounter = 1) :
    counterTick s = (if s.sync.lossReported then s else s.log .syncLoss).setSync ⟨false, 0, s.sync.buffer, true⟩ := by
  obtain ⟨⟨sy, n, v, l⟩, _⟩ := s
  obtain rfl : n = 1 := h
  cases l <;> rfl

theorem counterTick_of_one_lt {s : State} (h : 1 < s.sync.bitCounter) :
    counterTick s = s.setSync { s.sync with bitCounter := s.sync.bitCounter - 1 } := by
  obtain ⟨n, hn⟩ := Nat.exists_eq_add_of_le' h
  simp only [counterTick, hn, setCounter]
  rfl

/-! ### `RX_SYMBOL` -/

theorem exec_rxSymbol (b : Bool) (s : State) :
    exec (.rxSymbol b) s = answer ((rxSymbol b s).2.setFrameFound (rxSymbol b s).1) (.flag (rxSymbol b s).1) := rfl

/-- A symbol that ends in a tick, as an operation; what the last operation before the tick returned is lost. -/
theorem exec_rxSymbol_of_ticked {b f : Bool} {s u : State} (r : Result) (h : rxSymbol b s = (f, counterTick u)) :
    exec (.rxSymbol b) s = .next (((counterTick (u.returns r)).setFrameFound f).returns (.flag f)) := by
  rw [exec_rxSymbol, h, counterTick_returns]
  rfl

/-- Settles O16: a window that fills, by the parameter, and a tick by the counter. -/
theorem rxSymbolFillsWindow : Obligations.RxSymbolFillsWindow := by
  refine ⟨fun b s hl => ⟨fun hp => ?ticks, fun hp => ?silent⟩,
    fun s => ⟨counterTick_of_zero, counterTick_of_one_lt, fun h1 hl => ?reported, fun h1 hl => ?again⟩⟩
  case ticks =>
    rw [exec_rxSymbol, rxSymbol_partial hl, if_pos hp]
    rfl
  case silent =>
    rw [exec_rxSymbol, rxSymbol_partial hl, if_neg (by rw [hp]; decide)]
    rfl
  case reported => rw [counterTick_of_one h1, if_neg (by rw [hl]; decide)]
  case again => rw [counterTick_of_one h1, if_pos hl]

/-- A window handed on, as the two operations it runs; the second leaves the synchronizer (43 R220, R223). -/
theorem handWindowOn_runs {u : State} (hl : u.sync.buffer.length = burstLen) :
    ∃ c y, exec .timeInc u = .next ((u.setTime c).returns .none) ∧
      exec (.processBurst u.sync.buffer) (u.setTime c) = .next y ∧ y.sync = u.sync ∧
      (handWindowOn u).returns .none = y.setSync { u.sync with buffer := [] } := by
  have hsync : (processBurst u.sync.buffer (timeInc u)).sync = u.sync := processBurst_sync _ _
  refine ⟨timeNext u.time, _, rfl, exec_processBurst _ hl, hsync, ?_⟩
  rw [handWindowOn, setBuffer, hsync]
  rfl

/-- A full window that slides drops its first bit and no other (43 R220). -/
theorem slice_slide {v : Bits} (b : Bool) (hl : v.length = 509) : (v ++ [b]).slice 1 510 = v.drop 1 ++ [b] := by
  rw [Bits.slice, List.drop_append_of_le_length (by omega), List.take_of_length_le (by simp [hl])]

/-- Settles O17: the three ends of a full window. -/
theorem rxSymbolOnFullWindow : Obligations.RxSymbolOnFullWindow := by
  intro b s hl hp
  have hw : (s.sync.buffer ++ [b]).length = burstLen := by rw [List.length_append, hl]; rfl
  refine ⟨fun hm => ?matched, fun hm hsync hzero => ?grace, fun hm hout => ?slides⟩
  case matched =>
    obtain ⟨c, y, htime, hburst, -, hy⟩ :=
      handWindowOn_runs (u := s.setSync ⟨true, 25500, s.sync.buffer ++ [b], false⟩) hw
    have hrx : rxSymbol b s = (true, counterTick (handWindowOn (s.setSync ⟨true, 25500, s.sync.buffer ++ [b], false⟩))) := by
      rw [rxSymbol_full hl, rxFull_match hm, setSynchronized_eq (s := setBuffer s (s.sync.buffer ++ [b])) hp]
      rfl
    refine ⟨c, y, htime, hburst, ?_⟩
    rw [exec_rxSymbol_of_ticked .none hrx, hy, counterTick_of_one_lt (by decide : 1 < 25500)]
    rfl
  case grace =>
    obtain ⟨c, y, htime, hburst, -, hy⟩ := handWindowOn_runs (u := setBuffer s (s.sync.buffer ++ [b])) hw
    have hgrace : graceDue (setBuffer s (s.sync.buffer ++ [b])) = true :=
      Bool.and_eq_true_iff.mpr ⟨hsync, beq_iff_eq.mpr hzero⟩
    refine ⟨c, y, htime, hburst, ?_⟩
    rw [exec_rxSymbol_of_ticked .none ((rxSymbol_full hl).trans (rxFull_grace hm hgrace)), hy]
    rfl
  case slides =>
    have hgrace : graceDue (setBuffer s (s.sync.buffer ++ [b])) = false :=
      Bool.and_eq_false_iff.mpr (hout.imp id beq_eq_false_iff_ne.mpr)
    rw [exec_rxSymbol, rxSymbol_full hl, rxFull_slide hm hgrace, ← slice_slide b hl]
    rfl

/-! ### Symbols after a match -/

/-- The synchronizer `n` symbols after a match, if no window has matched since (43 R223, R224). -/
structure SinceMatch (n : Nat) (x : SyncState) : Prop where
  synchronized : x.synchronized = decide (n < 25499)
  bitCounter : x.bitCounter = 25499 - n
  window : x.buffer.length = n % 510

/-- A tick counts one symbol more, and the flag falls with the last one (43 R224). -/
theorem SinceMatch.tick {n : Nat} {x : SyncState} {u : State} {w : Bits} (h : SinceMatch n x) (hn : n < 25499)
    (hu : u.sync = { x with buffer := w }) (hw : w.length = (n + 1) % 510) : SinceMatch (n + 1) (counterTick u).sync := by
  obtain ⟨hsync, hcount, -⟩ := h
  rw [counterTick_sync, hu]
  simp only [hcount]
  rw [if_neg (by omega)]
  split
  · next hlast => exact ⟨(decide_eq_false (by omega)).symm, by simp only; omega, hw⟩
  · next hmore =>
    exact ⟨hsync.trans (by rw [decide_eq_true hn, decide_eq_true (by omega)]), by simp only; omega, hw⟩

/-- The window that fills after a match is a grace window: the counter stands at a multiple of 510 then (43 R223). -/
theorem SinceMatch.graceDue {n : Nat} {s : State} (h : SinceMatch n s.sync) (hn : n < 25499)
    (hl : s.sync.buffer.length = 509) : graceDue s = true := by
  obtain ⟨hsync, hcount, hwindow⟩ := h
  exact Bool.and_eq_true_iff.mpr ⟨hsync.trans (decide_eq_true hn), beq_iff_eq.mpr (by omega)⟩

/-- The state before the tick of a symbol that does not match: a full window is handed on, any other grows. -/
def graceWindow (b : Bool) (s : State) : State :=
  if s.sync.buffer.length = 509 then handWindowOn (setBuffer s (s.sync.buffer ++ [b]))
  else setBuffer s (s.sync.buffer ++ [b])

section
variable {n : Nat} {b : Bool} {s : State} (h : SinceMatch n s.sync) (hn : n < 25499)
  (hp : s.params.syncDecOnPartial = true)
  (hm : s.sync.buffer.length = 509 → windowMatches s.params (s.sync.buffer ++ [b]) = false)
include h hn hp hm

theorem SinceMatch.rxSymbol_eq : rxSymbol b s = (false, counterTick (graceWindow b s)) := by
  unfold graceWindow
  split
  · next hl => exact (rxSymbol_full hl).trans (rxFull_grace (hm hl) (h.graceDue hn hl))
  · next hl =>
    have hpartial : s.sync.buffer.length < 509 := by have := h.window; omega
    rw [rxSymbol_partial hpartial, if_pos hp]

theorem SinceMatch.rxSymbol : SinceMatch (n + 1) (rxSymbol b s).2.sync := by
  have hwindow := h.window
  rw [h.rxSymbol_eq hn hp hm]
  unfold graceWindow
  split
  · next hl => exact h.tick hn (handWindowOn_sync _) (by rw [List.length_nil]; omega)
  · next hl => exact h.tick hn rfl (by rw [List.length_append, List.length_singleton]; omega)

end

/-- The synchronizer after a symbol as an operation is that of the symbol. -/
theorem sync_of_exec_rxSymbol {b : Bool} {s t : State} {r : Result} (h : exec (.rxSymbol b) s = .next (t.returns r)) :
    t.sync = (rxSymbol b s).2.sync := by
  rw [exec_rxSymbol] at h
  have ht := answer_next.mp h
  simpa using congrArg State.sync ht

theorem feedSymbol_of_running {s : State} (b : Bool) (h : s.halted = false) :
    feedSymbol s b = (rxSymbol b s).2.setFrameFound (rxSymbol b s).1 := by
  rw [feedSymbol, h]
  rfl

theorem rxFull_fst (s : State) : (rxFull s).1 = windowMatches s.params s.sync.buffer := by
  cases hm : windowMatches s.params s.sync.buffer <;> simp [rxFull, syncMatch, hm]

/-- `frame_found` is the test of a match where the symbol fills the window (43 R220). -/
theorem rxSymbol_frameFound {b : Bool} {s : State} (hl : s.sync.buffer.length = 509) :
    (rxSymbol b s).1 = windowMatches s.params (s.sync.buffer ++ [b]) := by
  rw [rxSymbol_full hl]
  exact rxFull_fst _

/-- As long as no symbol finds a frame, the symbols after a match are counted, and the block runs on (43 R223, R224). -/
theorem sinceMatch_foldl {s : State} (hrun : s.halted = false) (hp : s.params.syncDecOnPartial = true)
    (h : SinceMatch 0 s.sync) (v : Bits) : v.length ≤ 25499 →
    (∀ k, 0 < k → k ≤ v.length → ((v.take k).foldl feedSymbol s).frameFound = false) →
    (v.foldl feedSymbol s).halted = false ∧ (v.foldl feedSymbol s).params = s.params ∧
      SinceMatch v.length (v.foldl feedSymbol s).sync := by
  induction v using List.reverseRecOn with
  | nil => exact fun _ _ => ⟨hrun, rfl, h⟩
  | append_singleton v b ih =>
    intro hlen hnone
    rw [List.length_append, List.length_singleton] at hlen hnone
    obtain ⟨hhalted, hparams, hsince⟩ := ih (by omega) fun k h0 hk => by
      rw [← List.take_append_of_le_length (l₂ := [b]) hk]
      exact hnone k h0 (by omega)
    have hlast := hnone (v.length + 1) (Nat.succ_pos _) le_rfl
    rw [List.take_of_length_le (by simp), List.foldl_concat, feedSymbol_of_running b hhalted] at hlast
    rw [List.foldl_concat, feedSymbol_of_running b hhalted, List.length_append, List.length_singleton]
    have houtside := (rxSymbol_outcome b (v.foldl feedSymbol s)).syncStep.outside
    exact ⟨houtside.halted.trans hhalted, houtside.params.trans hparams,
      hsince.rxSymbol (by omega) (by rw [hparams]; exact hp) fun hl => (rxSymbol_frameFound hl).symm.trans hlast⟩

/-- Settles O19: one symbol by what it does to the window, a run by induction on its symbols. -/
theorem graceWindowsEvery510Symbols : Obligations.GraceWindowsEvery510Symbols := by
  refine ⟨fun b s hp hsync hpos hle hlen hm => ?step, fun s v hrun hp hsync hcount hbuf hv hnone => ?run⟩
  case step =>
    intro u
    have h : SinceMatch (25499 - s.sync.bitCounter) s.sync :=
      ⟨hsync.trans (decide_eq_true (by omega)).symm, by omega, hlen⟩
    have hn : 25499 - s.sync.bitCounter < 25499 := by omega
    have counted {t : State} (hexec : exec (.rxSymbol b) s = .next (t.returns (.flag false))) :
        t.sync.synchronized = true ∧ t.sync.bitCounter = s.sync.bitCounter - 1 ∧
          t.sync.buffer.length = (25499 - t.sync.bitCounter) % 510 := by
      obtain ⟨hsync', hcount', hlen'⟩ := sync_of_exec_rxSymbol hexec ▸ h.rxSymbol hn hp hm
      exact ⟨hsync'.trans (decide_eq_true (by omega)), by omega, by rw [hlen', hcount']; congr 1; omega⟩
    have hrx := h.rxSymbol_eq hn hp hm
    by_cases hl : s.sync.buffer.length = 509
    · rw [graceWindow, if_pos hl] at hrx
      have hw : u.sync.buffer.length = burstLen := by simp [u, hl, burstLen]
      obtain ⟨c, y, htime, hburst, hysync, hy⟩ := handWindowOn_runs hw
      have hexec := exec_rxSymbol_of_ticked .none hrx
      obtain ⟨h1, h2, h3⟩ := counted hexec
      exact ⟨_, hexec, h1, h2, h3, fun hne => absurd hl hne,
        fun _ => ⟨c, y, htime, hburst, by rw [hysync, ← hy]; rfl⟩⟩
    · rw [graceWindow, if_neg hl] at hrx
      have hexec : exec (.rxSymbol b) s = .next (((counterTick u).setFrameFound false).returns (.flag false)) :=
        exec_rxSymbol_of_ticked u.result hrx
      obtain ⟨h1, h2, h3⟩ := counted hexec
      exact ⟨_, hexec, h1, h2, h3, fun _ => rfl, fun heq => absurd heq hl⟩
  case run =>
    have h : SinceMatch 0 s.sync := ⟨hsync, hcount, by rw [hbuf]; rfl⟩
    obtain ⟨-, -, hend⟩ := sinceMatch_foldl hrun hp h v hv hnone
    exact ⟨hend.bitCounter, hend.window, hend.synchronized⟩

end Sys2Proof.Machine
end

section
/-! The lower MAC (family 44_lower_mac): what the FEC chain answers, on a block of the test encoder's and on any block; where the blocks of a window stand; and the burst handlers as hand-overs of their blocks. -/

namespace Sys2Proof.Machine

/-! ### Lengths of the FEC chain -/

/-- A kept length and the 16 CRC bits are the length the CRC is checked over; four zeros more make the message, which rate 2/3 spreads over the block (30 R84). -/
theorem block_lengths (size : BlockSize) :
    blockCrc size = blockKeep size + 16 ∧ (blockCrc size + 4) % 2 = 0 ∧ 3 * (blockCrc size + 4) = 2 * blockK size := by
  cases size <;> decide

theorem fecMessage_length (p : Params) {info : Bits} {size : BlockSize} (hi : info.length = blockKeep size) :
    (fecMessage p info).length = blockCrc size + 4 := by
  obtain ⟨hcrc, -, -⟩ := block_lengths size
  rw [fecMessage, List.length_append, List.length_append, bvToBits_length, List.length_replicate, hi, hcrc]

theorem puncture_convEncode_length (P : Puncture) {u : Bits} (hu : u.length % 2 = 0) :
    2 * (puncture P (convEncode u)).length = 3 * u.length := by
  have hmother : (convEncode u).length = 8 * (u.length / 2) := by rw [convEncode_length]; omega
  have hlen := (puncture_groups P hmother).1
  omega

theorem puncture_fecMessage_length (p : Params) {info : Bits} {size : BlockSize} (hi : info.length = blockKeep size) :
    (puncture p.punct (convEncode (fecMessage p info))).length = blockK size := by
  obtain ⟨-, heven, hrate⟩ := block_lengths size
  have hm := fecMessage_length p hi
  have hp := puncture_convEncode_length p.punct (u := fecMessage p info) (by rw [hm, heven])
  omega

@[simp] theorem fecEncode_length (p : Params) (info : Bits) (key : BitVec 32) (size : BlockSize) :
    (fecEncode p info key size).length = blockK size := by
  rw [fecEncode, descramble_length, interleave_length]

@[simp] theorem aachEncode_length (p : Params) (m : Bits) (key : BitVec 32) : (aachEncode p m key).length = 30 := by
  rw [aachEncode, descramble_length]
  exact bvToBits_length _

/-! ### The FEC chain on an encoded block -/

/-- Each stage of the receiver undoes one of the test encoder's, the last first (44 R246, 95 section 0.3). -/
theorem fecBits_fecEncode {p : Params} (hp : p.punct = Params.default.punct) {info : Bits} (key : BitVec 32)
    {size : BlockSize} (hi : info.length = blockKeep size) :
    fecBits p (fecEncode p info key size) key size = fecMessage p info := by
  obtain ⟨-, hcrc, -⟩ := block_lengths size
  have heven : (fecMessage p info).length % 2 = 0 := by rw [fecMessage_length p hi, hcrc]
  rw [fecBits, fecEncode, descramble_descramble, deinterleave_interleave (puncture_fecMessage_length p hi), ← received,
    viterbiDecode_received hp heven]

/-- The message without its four zeros carries its own CRC. -/
theorem crc16Check_fecMessage (p : Params) {info : Bits} {size : BlockSize} (hi : info.length = blockKeep size) :
    crc16Check p.crcXorout ((fecMessage p info).slice 0 (blockCrc size)) = true := by
  have hcut : (info ++ bvToBits (crc16 p.crcXorout info)).length = blockCrc size := by
    rw [List.length_append, bvToBits_length, hi, (block_lengths size).1]
  have hslice : (fecMessage p info).slice 0 (blockCrc size) = info ++ bvToBits (crc16 p.crcXorout info) :=
    slice_middle (head := []) _ _ rfl ((Nat.zero_add _).trans hcut)
  rw [hslice, crc16Check_append info (bvToBits_length _), decide_eq_true rfl]

theorem resize_fecMessage (p : Params) {info : Bits} {n : Nat} (hi : info.length = n) : resize (fecMessage p info) n = info := by
  subst hi
  have hle : info.length ≤ (fecMessage p info).length := by
    rw [fecMessage, List.append_assoc, List.length_append]; exact Nat.le_add_right ..
  rw [resize, if_pos hle, fecMessage, List.append_assoc, List.take_left]

theorem fecDecodeBlock_fecEncode {s : State} (hp : s.params.punct = Params.default.punct) {info : Bits} (key : BitVec 32)
    {size : BlockSize} (hi : info.length = blockKeep size) :
    fecDecodeBlock (fecEncode s.params info key size) key size s = (some info, s) := by
  rw [fecDecodeBlock, fecBits_fecEncode hp key hi]
  exact (if_pos (crc16Check_fecMessage s.params hi)).trans (by rw [resize_fecMessage s.params hi])

/-! ### `FEC_DECODE_BLOCK` on any block -/

theorem exec_fecDecodeBlock {x : Bits} (key : BitVec 32) {size : BlockSize} (s : State) (hx : x.length = blockK size) :
    exec (.fecDecodeBlock x key size) s =
      .next ((fecDecodeBlock x key size s).2.returns (fecResult (fecDecodeBlock x key size s).1)) :=
  inDomain_next.mpr ⟨beq_iff_eq.mpr hx, rfl⟩

theorem fecDecodeBlock_of_crc_fails {x : Bits} {key : BitVec 32} {size : BlockSize} {s : State}
    (h : crc16Check s.params.crcXorout ((fecBits s.params x key size).slice 0 (blockCrc size)) = false) :
    fecDecodeBlock x key size s = (none, s.log (.fecFail (blockK size) (blockCrc size))) :=
  if_neg (by rw [h]; decide)

/-- A block is decoded and nothing is written, or its CRC fails and that is reported (44 R246). -/
theorem fecDecodeBlock_cases (x : Bits) (key : BitVec 32) (size : BlockSize) (s : State) :
    (∃ r, fecDecodeBlock x key size s = (some r, s)) ∨
      fecDecodeBlock x key size s = (none, s.log (.fecFail (blockK size) (blockCrc size))) := by
  cases h : crc16Check s.params.crcXorout ((fecBits s.params x key size).slice 0 (blockCrc size)) with
  | true => exact .inl ⟨_, if_pos h⟩
  | false => exact .inr (fecDecodeBlock_of_crc_fails h)

/-- Settles O36, for each of the three sizes by the facts about every size. -/
theorem fecDecodesEncodedBlock : Obligations.FecDecodesEncodedBlock := by
  have hsizes : ∀ p ∈ [(BlockSize.k120, 60), (.k216, 124), (.k432, 268)], p.2 = blockKeep p.1 := by decide
  intro p hp info key s hi hpunct
  rw [exec_fecDecodeBlock key s (fecEncode_length ..), fecDecodeBlock_fecEncode hpunct key (hi.trans (hsizes p hp))]
  rfl

/-- Settles O37: the branch of a CRC that fails, and the domain of the operation. -/
theorem fecFailureDropsBlock : Obligations.FecFailureDropsBlock := by
  have hsizes : ∀ p ∈ [(BlockSize.k120, 120, 76), (.k216, 216, 140), (.k432, 432, 284)],
      p.2.1 = blockK p.1 ∧ p.2.2 = blockCrc p.1 := by decide
  intro p hp x key s
  obtain ⟨hK, hcrc⟩ := hsizes p hp
  rw [hK, hcrc]
  refine ⟨fun hx hfails => ?dropped, fun hx => inDomain_refused (beq_eq_false_iff_ne.mpr hx)⟩
  case dropped =>
    rw [exec_fecDecodeBlock key s hx, fecDecodeBlock_of_crc_fails hfails]
    rfl

/-! ### One block of a burst -/

/-- Decode and hand over: the first part of `HandedOver` where the CRC passes, the second where it fails (44 R246, R247). -/
theorem handedOver_decodeAndHandoff {x : Bits} (key : BitVec 32) {size : BlockSize} (ch : LogicalChannel) (s : State)
    (hx : x.length = blockK size) : HandedOver x key size ch s (decodeAndHandoff x key size ch s) := by
  rw [HandedOver, exec_fecDecodeBlock key s hx]
  rcases fecDecodeBlock_cases x key size s with ⟨r, h⟩ | h
  · exact .inl ⟨r, by rw [h]; rfl, by rw [decodeAndHandoff, h]⟩
  · exact .inr ⟨by rw [h]; rfl, by rw [decodeAndHandoff, h]⟩

/-- Where `FEC_DECODE_BLOCK` answers `FAIL`, the record is all that the block leaves. -/
theorem decodeAndHandoff_of_fail {x : Bits} {key : BitVec 32} {size : BlockSize} (ch : LogicalChannel) {s : State}
    (hx : x.length = blockK size)
    (h : exec (.fecDecodeBlock x key size) s = .next ((s.log (.fecFail (blockK size) (blockCrc size))).returns .fail)) :
    decodeAndHandoff x key size ch s = s.log (.fecFail (blockK size) (blockCrc size)) := by
  rcases handedOver_decodeAndHandoff key ch s hx with ⟨r, hr, -⟩ | ⟨-, hdropped⟩
  · exact nomatch congrArg State.result (Host.Outcome.next.inj (hr.symm.trans h))
  · exact hdropped

theorem decodeAndHandoff_fecEncode {p : Params} {s : State} (hs : s.params = p) (hp : p.punct = Params.default.punct)
    {info : Bits} (key : BitVec 32) {size : BlockSize} (ch : LogicalChannel) (hi : info.length = blockKeep size) :
    decodeAndHandoff (fecEncode p info key size) key size ch s = handoff info ch s := by
  subst hs
  rw [decodeAndHandoff, fecDecodeBlock_fecEncode hp key hi]

theorem aachHandoff_aachEncode {p : Params} {s : State} (hs : s.params = p) {m : Bits} {key : BitVec 32}
    (hkey : s.cell.scramblingCode = key) (hm : m.length = 14) : aachHandoff (aachEncode p m key) s = handoff m .aach s := by
  subst hs hkey
  rw [aachHandoff, aachDecodeBlock, aachEncode, descramble_descramble, rmDecode_rmEncodeBits hm]

theorem handoff_params (blk : Bits) (ch : LogicalChannel) (s : State) : (handoff blk ch s).params = s.params :=
  (macStep_handoff blk ch s).outside.params

theorem handoff_aach_cell (blk : Bits) (s : State) : (handoff blk .aach s).cell = s.cell :=
  (quiet_umacDispatch blk (s.setLogicalChannel .aach) (by decide)).cell

/-- An AACH steals no slot (45 R282). -/
theorem handoff_aach_secondSlotStolen (blk : Bits) (s : State) :
    (handoff blk .aach s).mac.secondSlotStolen = s.mac.secondSlotStolen := by
  rw [handoff, umacDispatch]
  rcases caught_cases (s.setLogicalChannel .aach) (dissectAach blk (s.setLogicalChannel .aach)) with ⟨u, hu, hc⟩ | ⟨e, -, hc⟩
  · rw [hc]
    obtain ⟨-, -, -, hstolen⟩ := dissectAach_frame hu
    exact hstolen
  · rw [hc]; rfl

/-! ### The windows of the three classes -/

/-- The blocks of an SB window (30 R81). -/
theorem sbWindow_slices {pre bsch ts bbk bkn2 post w : Bits} (hw : w = pre ++ bsch ++ ts ++ bbk ++ bkn2 ++ post)
    (hpre : pre.length = 94) (hbsch : bsch.length = 120) (hts : ts.length = 38) (hbbk : bbk.length = 30)
    (hbkn2 : bkn2.length = 216) (hpost : post.length = 12) :
    w.length = burstLen ∧ w.slice 94 214 = bsch ∧ w.slice 252 282 = bbk ∧ w.slice 282 498 = bkn2 := by
  subst hw
  refine ⟨by simp [burstLen, *], ?bsch, ?bbk, ?bkn2⟩
  case bsch =>
    have := slice_middle bsch (ts ++ bbk ++ bkn2 ++ post) hpre (b := 214) (by rw [hbsch])
    simpa only [List.append_assoc] using this
  case bbk =>
    have := slice_middle (head := pre ++ bsch ++ ts) bbk (bkn2 ++ post) (a := 252) (b := 282) (by simp [*]) (by rw [hbbk])
    simpa only [List.append_assoc] using this
  case bkn2 => exact slice_middle (head := pre ++ bsch ++ ts ++ bbk) bkn2 post (by simp [*]) (by rw [hbkn2])

/-- The blocks of an NDB or NDB_SF window; its AACH is in two parts around the training sequence (30 R82). -/
theorem ndbWindow_slices {pre bkn1 bbk ts bkn2 post w : Bits}
    (hw : w = pre ++ bkn1 ++ bbk.take 14 ++ ts ++ bbk.drop 14 ++ bkn2 ++ post)
    (hpre : pre.length = 14) (hbkn1 : bkn1.length = 216) (hbbk : bbk.length = 30) (hts : ts.length = 22)
    (hbkn2 : bkn2.length = 216) (hpost : post.length = 12) :
    w.length = burstLen ∧ ndbBbk w = bbk ∧ w.slice 14 230 = bkn1 ∧ w.slice 282 498 = bkn2 := by
  subst hw
  refine ⟨by simp [burstLen, *], ?bbk, ?bkn1, ?bkn2⟩
  case bbk =>
    have hfirst := slice_middle (head := pre ++ bkn1) (bbk.take 14) (ts ++ bbk.drop 14 ++ bkn2 ++ post) (a := 230) (b := 244)
      (by simp [*]) (by simp [*])
    have hsecond := slice_middle (head := pre ++ bkn1 ++ bbk.take 14 ++ ts) (bbk.drop 14) (bkn2 ++ post) (a := 266) (b := 282)
      (by simp [*]) (by simp [*])
    simp only [List.append_assoc] at hfirst hsecond
    simp only [ndbBbk, append, List.append_assoc, hfirst, hsecond, List.take_append_drop]
  case bkn1 =>
    have := slice_middle bkn1 (bbk.take 14 ++ ts ++ bbk.drop 14 ++ bkn2 ++ post) hpre (b := 230) (by rw [hbkn1])
    simpa only [List.append_assoc] using this
  case bkn2 =>
    exact slice_middle (head := pre ++ bkn1 ++ bbk.take 14 ++ ts ++ bbk.drop 14) bkn2 post (by simp [*]) (by rw [hbkn2])

/-! ### The burst handlers -/

theorem exec_lmacSb {w : Bits} (s : State) (hl : w.length = burstLen) : exec (.lmacSb w) s = .next ((lmacSb w s).returns .none) :=
  inDomain_next.mpr ⟨beq_iff_eq.mpr hl, rfl⟩

theorem exec_lmacNdb {w : Bits} (s : State) (hl : w.length = burstLen) :
    exec (.lmacNdb w) s = .next ((lmacNdb w s).returns .none) :=
  inDomain_next.mpr ⟨beq_iff_eq.mpr hl, rfl⟩

theorem exec_lmacNdbSf {w : Bits} (s : State) (hl : w.length = burstLen) :
    exec (.lmacNdbSf w) s = .next ((lmacNdbSf w s).returns .none) :=
  inDomain_next.mpr ⟨beq_iff_eq.mpr hl, rfl⟩

/-- Settles O35: the cleared state is `LMAC_BURST`'s own. -/
theorem lmacBurstClearsThenRuns : Obligations.LmacBurstClearsThenRuns := by
  intro w s hl c
  exact ⟨⟨_, exec_lmacSb c hl, exec_lmacBurst .sb s hl⟩, ⟨_, exec_lmacNdb c hl, exec_lmacBurst .ndb s hl⟩,
    ⟨_, exec_lmacNdbSf c hl, exec_lmacBurst .ndbSf s hl⟩⟩

theorem trafficNow_iff (s : State) :
    trafficNow s = true ↔ s.mac.downlinkUsage = .traffic ∧ 1 ≤ s.time.fn ∧ s.time.fn ≤ 17 := by
  simp only [trafficNow, Bool.and_eq_true, beq_iff_eq, decide_eq_true_eq, and_assoc]

theorem trafficMode_iff (s : State) : trafficMode s = true ↔ s.mac.downlinkUsage = .traffic := beq_iff_eq

theorem bnchSlot_iff (t : TetraTime) : bnchSlot t = true ↔ t.fn = 18 ∧ (t.mn + t.tn) % 4 = 1 := by
  simp only [bnchSlot, Bool.and_eq_true, beq_iff_eq]

section
variable {w : Bits} {s u : State} (hu : aachHandoff (ndbBbk w) s = u)
include hu

/-- An NDB whose AACH gives it to traffic is handed over undecoded (44 R242, R243). -/
theorem lmacNdb_of_traffic (h : u.mac.downlinkUsage = .traffic ∧ 1 ≤ u.time.fn ∧ u.time.fn ≤ 17) :
    lmacNdb w s = handoff (descramble u.params (w.slice 14 230 ++ w.slice 282 498) u.cell.scramblingCode) .tchS u := by
  rw [lmacNdb, hu]
  exact if_pos ((trafficNow_iff u).mpr h)

/-- Any other NDB is decoded as one block (44 R242, R243). -/
theorem lmacNdb_of_not_traffic (h : ¬ (u.mac.downlinkUsage = .traffic ∧ 1 ≤ u.time.fn ∧ u.time.fn ≤ 17)) :
    lmacNdb w s = decodeAndHandoff (w.slice 14 230 ++ w.slice 282 498) u.cell.scramblingCode .k432 .schF u := by
  rw [lmacNdb, hu]
  exact if_neg (mt (trafficNow_iff u).mp h)

/-- BKN1 of an NDB_SF is an STCH in traffic mode, else an SCH_HD; the mode for BKN2 is the one read before it (44 R244). -/
theorem lmacNdbSf_of_traffic (h : u.mac.downlinkUsage = .traffic) :
    lmacNdbSf w s = lmacBkn2 w true (decodeAndHandoff (w.slice 14 230) u.cell.scramblingCode .k216 .stch u) := by
  rw [lmacNdbSf, hu, (trafficMode_iff u).mpr h]
  rfl

theorem lmacNdbSf_of_not_traffic (h : u.mac.downlinkUsage ≠ .traffic) :
    lmacNdbSf w s = lmacBkn2 w false (decodeAndHandoff (w.slice 14 230) u.cell.scramblingCode .k216 .schHd u) := by
  rw [lmacNdbSf, hu, Bool.eq_false_iff.mpr (mt (trafficMode_iff u).mp h)]
  rfl

end

/-- In signalling mode BKN2 is decoded as the BNCH in its slot, else as an SCH_HD (44 R244). -/
theorem lmacBkn2_signalling (w : Bits) (t : State) :
    lmacBkn2 w false t = decodeAndHandoff (w.slice 282 498) t.cell.scramblingCode .k216
      (if t.time.fn = 18 ∧ (t.time.mn + t.time.tn) % 4 = 1 then .bnch else .schHd) t := by
  rw [if_congr (bnchSlot_iff t.time).symm rfl rfl]
  rfl

theorem lmacBkn2_stolen {t : State} (w : Bits) (h : t.mac.secondSlotStolen = true) :
    lmacBkn2 w true t = decodeAndHandoff (w.slice 282 498) t.cell.scramblingCode .k216 .stch t := by
  rw [lmacBkn2, h]
  rfl

theorem lmacBkn2_not_stolen {t : State} (w : Bits) (h : t.mac.secondSlotStolen = false) :
    lmacBkn2 w true t = t.log (.blockIgnored .bkn2) := by
  rw [lmacBkn2, h]
  rfl

/-! ### Bursts of the test encoder -/

/-- Settles O38: the blocks of the window one after another, each under the code that then stands. -/
theorem sbHandsOverWithFreshKey : Obligations.SbHandsOverWithFreshKey := by
  intro pre bsch ts aach sch post s hpre hbsch hts haach hsch hpost hp key
  obtain ⟨hlen, hblock1, hbbk, hblock2⟩ := sbWindow_slices (bsch := fecEncode s.params bsch 3 .k120)
    (bbk := aachEncode s.params aach key) (bkn2 := fecEncode s.params sch key .k216) rfl hpre (fecEncode_length ..) hts
    (aachEncode_length ..) (fecEncode_length ..) hpost
  have hparams := handoff_params bsch .bsch s
  have hkey := congrArg CellState.scramblingCode (handoff_aach_cell aach (handoff bsch .bsch s))
  rw [exec_lmacSb s hlen, lmacSb, hblock1, hbbk, hblock2, decodeAndHandoff_fecEncode rfl hp 3 .bsch hbsch,
    aachHandoff_aachEncode hparams rfl haach,
    hkey, decodeAndHandoff_fecEncode ((handoff_params ..).trans hparams) hp key .schHd hsch]

/-- Settles O39: the two halves of the block join, and the usage after the AACH chooses the branch. -/
theorem ndbHandsOverAachFirst : Obligations.NdbHandsOverAachFirst := by
  intro pre aach ts post x s hpre haach hts hpost hx hp key bbk window u
  have hkey : u.cell.scramblingCode = key := congrArg CellState.scramblingCode (handoff_aach_cell aach s)
  have hparams : u.params = s.params := handoff_params aach .aach s
  have hwindow {y : Bits} (hy : y.length = 432) : (window y).length = burstLen ∧ aachHandoff (ndbBbk (window y)) s = u ∧
      (window y).slice 14 230 ++ (window y).slice 282 498 = y := by
    obtain ⟨hlen, hbbk, hblock1, hblock2⟩ := ndbWindow_slices (w := window y) rfl hpre (by simp [hy])
      (aachEncode_length s.params aach key) hts (by simp [hy]) hpost
    rw [hbbk, hblock1, hblock2]
    exact ⟨hlen, aachHandoff_aachEncode rfl rfl haach, List.take_append_drop 216 y⟩
  refine ⟨fun htraffic hfirst hlast => ?tchS, fun hother sch hsch => ?schF⟩
  case tchS =>
    obtain ⟨hlen, hu, hblock⟩ := hwindow ((descramble_length s.params x key).trans hx)
    rw [exec_lmacNdb s hlen, lmacNdb_of_traffic hu ⟨htraffic, hfirst, hlast⟩, hblock, hkey, hparams, descramble_descramble]
  case schF =>
    obtain ⟨hlen, hu, hblock⟩ := hwindow (fecEncode_length s.params sch key .k432)
    rw [exec_lmacNdb s hlen, lmacNdb_of_not_traffic hu fun h => hother h.1, hblock, hkey,
      decodeAndHandoff_fecEncode hparams hp key .schF hsch]

/-- Settles O40: BKN1 leaves the code and the time as they were, so BKN2 is read as the mode and its own slot say. -/
theorem ndbSfSplitsHalfSlots : Obligations.NdbSfSplitsHalfSlots := by
  intro pre aach ts post a b s hpre haach hts hpost ha hb hp key bbk w u
  obtain ⟨hlen, hbbk, hblock1, hblock2⟩ := ndbWindow_slices (w := w) rfl hpre (fecEncode_length s.params a key .k216)
    (aachEncode_length s.params aach key) hts (fecEncode_length s.params b key .k216) hpost
  have hu : aachHandoff (ndbBbk w) s = u := by rw [hbbk]; exact aachHandoff_aachEncode rfl rfl haach
  have hkey : u.cell.scramblingCode = key := congrArg CellState.scramblingCode (handoff_aach_cell aach s)
  have hparams : u.params = s.params := handoff_params aach .aach s
  have hbkn1 (ch : LogicalChannel) :
      decodeAndHandoff (w.slice 14 230) u.cell.scramblingCode .k216 ch u = handoff a ch u := by
    rw [hblock1, hkey, decodeAndHandoff_fecEncode hparams hp key ch ha]
  have hbkn2 {ch : LogicalChannel} (hch : ch ≠ .bsch) (ch' : LogicalChannel) :
      decodeAndHandoff (w.slice 282 498) (handoff a ch u).cell.scramblingCode .k216 ch' (handoff a ch u) =
        handoff b ch' (handoff a ch u) := by
    rw [hblock2, (handoff_identity a u hch).scramblingCode, hkey,
      decodeAndHandoff_fecEncode ((handoff_params ..).trans hparams) hp key ch' hb]
  have hsignalling (h : u.mac.downlinkUsage ≠ .traffic) : exec (.lmacNdbSf w) s =
      .next ((handoff b (if u.time.fn = 18 ∧ (u.time.mn + u.time.tn) % 4 = 1 then .bnch else .schHd)
        (handoff a .schHd u)).returns .none) := by
    rw [exec_lmacNdbSf s hlen, lmacNdbSf_of_not_traffic hu h, hbkn1, lmacBkn2_signalling, hbkn2 (by decide),
      (handoff_identity a u (by decide : LogicalChannel.schHd ≠ .bsch)).time]
  refine ⟨fun h hfn hslot => ?bnch, fun h hslot => ?schHd, fun h hstolen => ?stch, fun h hstolen => ?ignored⟩
  case bnch => rw [hsignalling h, if_pos ⟨hfn, hslot⟩]
  case schHd => rw [hsignalling h, if_neg fun hbnch => hslot.elim (· hbnch.1) (· hbnch.2)]
  case stch => rw [exec_lmacNdbSf s hlen, lmacNdbSf_of_traffic hu h, hbkn1, lmacBkn2_stolen w hstolen, hbkn2 (by decide)]
  case ignored => rw [exec_lmacNdbSf s hlen, lmacNdbSf_of_traffic hu h, hbkn1, lmacBkn2_not_stolen w hstolen]

/-! ### Any burst -/

/-- An SB on any window, block by block (44 R241, R245 to R247). -/
theorem lmacSb_handsOver {w : Bits} (s : State) (hl : w.length = burstLen) :
    ∃ t a v, HandedOver (w.slice 94 214) 3 .k120 .bsch s t ∧
      (exec (.fecDecodeBlock (w.slice 94 214) 3 .k120) s = .next ((s.log (.fecFail 120 76)).returns .fail) → t.cell = s.cell) ∧
      exec (.aachDecodeBlock (w.slice 252 282) t.cell.scramblingCode) t = .next (t.returns (.bits a)) ∧
      HandedOver (w.slice 282 498) (handoff a .aach t).cell.scramblingCode .k216 .schHd (handoff a .aach t) v ∧
      exec (.lmacSb w) s = .next (v.returns .none) := by
  have hslice {a b : Nat} (hb : b ≤ burstLen) : (w.slice a b).length = b - a := slice_length w (by rw [hl]; exact hb)
  have hbsch : (w.slice 94 214).length = blockK .k120 := hslice (by decide)
  refine ⟨_, _, _, handedOver_decodeAndHandoff 3 .bsch s hbsch, fun hfail => ?_,
    exec_aachDecodeBlock _ _ (hslice (by decide)), handedOver_decodeAndHandoff _ _ _ (hslice (by decide)), exec_lmacSb s hl⟩
  rw [decodeAndHandoff_of_fail .bsch hbsch hfail]
  rfl

/-- Settles O41: each handler is the sequence of its blocks' hand-overs, the AACH of an NDB or NDB_SF first. -/
theorem burstHandlersOnAnyWindow : Obligations.BurstHandlersOnAnyWindow := by
  intro w s hl
  have hslice {a b : Nat} (hb : b ≤ burstLen) : (w.slice a b).length = b - a := slice_length w (by rw [hl]; exact hb)
  have hbkn1 : (w.slice 14 230).length = blockK .k216 := hslice (by decide)
  have hbkn2 : (w.slice 282 498).length = blockK .k216 := hslice (by decide)
  have hbbk : (ndbBbk w).length = 30 := by
    rw [ndbBbk, append, List.length_append, hslice (by decide), hslice (by decide)]
  refine ⟨lmacSb_handsOver s hl, _, exec_aachDecodeBlock _ s hbbk, ?_⟩
  intro u x
  have hx : x.length = blockK .k432 := by rw [List.length_append, hbkn1, hbkn2]; rfl
  have hu : aachHandoff (ndbBbk w) s = u := rfl
  refine ⟨handoff_aach_cell _ s, fun h => ?tchS, fun h => ?schF, fun h => ?signalling, fun h => ?traffic⟩
  case tchS => exact ⟨_, rfl, by rw [exec_lmacNdb s hl, lmacNdb_of_traffic hu h]⟩
  case schF =>
    exact ⟨_, handedOver_decodeAndHandoff _ _ u hx, by rw [exec_lmacNdb s hl, lmacNdb_of_not_traffic hu h]⟩
  case signalling =>
    exact ⟨_, _, handedOver_decodeAndHandoff _ _ u hbkn1, handedOver_decodeAndHandoff _ _ _ hbkn2,
      by rw [exec_lmacNdbSf s hl, lmacNdbSf_of_not_traffic hu h, lmacBkn2_signalling]⟩
  case traffic =>
    refine ⟨_, handedOver_decodeAndHandoff _ _ u hbkn1, fun hfail => ?dropped, fun hstolen => ?stolen, fun hstolen => ?ignored⟩
    case dropped =>
      rw [decodeAndHandoff_of_fail .stch hbkn1 hfail]
      exact handoff_aach_secondSlotStolen _ s
    case stolen =>
      exact ⟨_, handedOver_decodeAndHandoff _ _ _ hbkn2,
        by rw [exec_lmacNdbSf s hl, lmacNdbSf_of_traffic hu h, lmacBkn2_stolen w hstolen]⟩
    case ignored => rw [exec_lmacNdbSf s hl, lmacNdbSf_of_traffic hu h, lmacBkn2_not_stolen w hstolen]

end Sys2Proof.Machine
end

section
/-! The upper MAC (family 45_upper_mac): fill bits and the routing of a PDU by its type; then each dissection unit by its fields, and what it commits; the abandoned unit; the dissociation loop. -/

namespace Sys2Proof.Machine

/-! ### Fields at the start of a PDU -/

theorem standsAt_start (e post : Bits) : StandsAt (e ++ post) 0 e := ⟨[], post, rfl, rfl⟩

/-- A field stays in its place when bits are added behind the PDU. -/
theorem StandsAt.append {p e : Bits} {pos : Nat} (h : StandsAt p pos e) (more : Bits) : StandsAt (p ++ more) pos e := by
  obtain ⟨pre, post, rfl, hpos⟩ := h
  exact ⟨pre, post ++ more, by simp only [List.append_assoc], hpos⟩

/-- The low bits of a number, and the bits above them (00 R10). -/
theorem natToBits_add (m k n : Nat) : natToBits (m + k) n = natToBits m (n >>> k) ++ natToBits k n := by
  induction m with
  | zero => rw [Nat.zero_add]; rfl
  | succ m ih =>
    rw [Nat.succ_add, natToBits, natToBits, ih, Nat.testBit_shiftRight, Nat.add_comm k m, List.cons_append]

theorem natToBits_congr {k : Nat} : ∀ {m n : Nat}, (∀ i < k, m.testBit i = n.testBit i) → natToBits k m = natToBits k n := by
  induction k with
  | zero => intro m n _; rfl
  | succ k ih =>
    intro m n h
    rw [natToBits, natToBits, h k (Nat.lt_succ_self k), ih fun i hi => h i (Nat.lt_succ_of_lt hi)]

/-- A word of two parts is the bits of the first and then those of the second (30 R101). -/
theorem bvToBits_append {m k : Nat} (x : BitVec m) (y : BitVec k) : bvToBits (x ++ y) = bvToBits x ++ bvToBits y := by
  have hhigh : (x ++ y).toNat >>> k = x.toNat := by
    rw [BitVec.toNat_append, Nat.shiftRight_or_distrib, Nat.shiftLeft_shiftRight, Nat.shiftRight_eq_div_pow,
      Nat.div_eq_of_lt y.isLt, Nat.or_zero]
  have hlow : ∀ i < k, (x ++ y).toNat.testBit i = y.toNat.testBit i := fun i hi => by
    rw [BitVec.toNat_append, Nat.testBit_or, Nat.testBit_shiftLeft, decide_eq_false (Nat.not_le.mpr hi), Bool.false_and,
      Bool.false_or]
  rw [bvToBits, natToBits_add, hhigh, natToBits_congr hlow]
  rfl

/-! ### Fill bits -/

/-- Fill bits are the longest run of zeros at the end and the 1 before it (45 R287). -/
theorem stripFillBits_appendFillBits (x : Bits) (k : Nat) : stripFillBits (appendFillBits x k) = x := by
  simp [stripFillBits, appendFillBits]

theorem stripFillBits_zeros (k : Nat) : stripFillBits (List.replicate k false) = [] := by
  simp [stripFillBits]

/-- Stripping fill bits takes a tail of the PDU away. -/
theorem stripFillBits_length_le (p : Bits) : (stripFillBits p).length ≤ p.length := by
  have hdrop := (List.dropWhile_suffix (fun b => !b) (l := p.reverse)).length_le
  rw [List.length_reverse] at hdrop
  rw [stripFillBits, List.length_reverse, List.length_drop]
  omega

theorem strippedIf_length_le (keep : Bool) (fill : Nat) (p : Bits) : (strippedIf keep fill p).length ≤ p.length := by
  rw [strippedIf]
  split
  · exact stripFillBits_length_le p
  · exact le_rfl

/-- Settles O50: the run of zeros ends at the appended 1, or nowhere. -/
theorem stripUndoesFillBits : Obligations.StripUndoesFillBits := fun x k s =>
  ⟨answer_next.mpr (by rw [stripFillBits_appendFillBits]), answer_next.mpr (by rw [stripFillBits_zeros])⟩

/-- `g` is received for the PDU `p` with this fill-bit flag: `p` itself, or `p` with fill bits that are to be stripped (45 R287). -/
def FilledFrom (keep : Bool) (fill : BitVec 1) (k : Nat) (p g : Bits) : Prop :=
  (fill = 0 ∨ keep = true) ∧ g = p ∨ fill = 1 ∧ keep = false ∧ g = appendFillBits p k

section
variable {keep : Bool} {fill : BitVec 1} {k : Nat} {p g : Bits}

theorem FilledFrom.strippedIf_eq (h : FilledFrom keep fill k p g) : strippedIf keep fill.toNat g = p := by
  rcases h with ⟨hkeep, rfl⟩ | ⟨rfl, rfl, rfl⟩
  · refine if_neg fun hstrip => ?_
    rcases hkeep with rfl | rfl
    · exact absurd hstrip.1 (by decide)
    · exact absurd hstrip.2 (by decide)
  · exact stripFillBits_appendFillBits p k

/-- Every field of the PDU stands in what is received. -/
theorem FilledFrom.standsAt {e : Bits} {pos : Nat} (h : FilledFrom keep fill k p g) (he : StandsAt p pos e) :
    StandsAt g pos e := by
  rcases h with ⟨-, rfl⟩ | ⟨-, -, rfl⟩
  · exact he
  · exact he.append _

end

/-! ### PDU types as routes (30 R101, 45 R281) -/

/-- A unit that gives a result and a state. -/
theorem answerUnit_of_ok {s u : State} {r : UnitResult} {x : Except OutOfRange (UnitResult × State)} (h : x = .ok (r, u)) :
    answerUnit s x = .next (u.returns (.unit r)) := by
  rw [h]
  rfl

/-- A unit without a result record that gives a state. -/
theorem answerPlain_of_ok {s u : State} {x : Except OutOfRange State} (h : x = .ok u) :
    answerPlain s x = .next (u.returns .none) := by
  rw [h]
  rfl

/-- The bits of a PDU-type row, put before the rest of the PDU, are the PDU. -/
theorem pduOf_drop {code : BitVec 4} {g : Bits} (h : StandsAt g 0 (bvToBits code)) : pduOf code (g.drop 4) = g := by
  obtain ⟨pre, post, rfl, hpre⟩ := h
  rw [List.length_eq_zero_iff.mp hpre, List.nil_append, pduOf, List.drop_left' (bvToBits_length code)]

section
variable {p : Bits} (ch : SigChannel) (s : State)

theorem dissectOne_macResource (h : StandsAt p 0 [false, false]) : dissectOne p ch s = dissectMacResource p ch s := by
  have htype : getValue p 0 2 = .ok 0 := h.getValue_eq rfl
  rw [dissectOne, htype, ok_bind]
  rfl

theorem dissectOne_macFrag (h : StandsAt p 0 [false, true, false]) : dissectOne p ch s = dissectMacFrag p s := by
  obtain ⟨htype, hsub⟩ := StandsAt.split (u := [false, true]) h
  have hsub' : getValue p 2 1 = .ok 0 := hsub.getValue_eq rfl
  have htype' : getValue p 0 2 = .ok 1 := htype.getValue_eq rfl
  rw [dissectOne, htype', ok_bind, hsub', ok_bind]
  rfl

theorem dissectOne_macEnd (h : StandsAt p 0 [false, true, true]) : dissectOne p ch s = dissectMacEnd p ch s := by
  obtain ⟨htype, hsub⟩ := StandsAt.split (u := [false, true]) h
  have hsub' : getValue p 2 1 = .ok 1 := hsub.getValue_eq rfl
  have htype' : getValue p 0 2 = .ok 1 := htype.getValue_eq rfl
  rw [dissectOne, htype', ok_bind, hsub', ok_bind]
  rfl

/-- Type 10, by its subtype. -/
theorem dissectOne_type10 {sub : BitVec 2} (h : StandsAt p 0 ([true, false] ++ bvToBits sub)) : dissectOne p ch s =
    if sub.toNat = 0b00 then dissectSysinfo p ch s
    else if sub.toNat = 0b01 then .ok (dissectAccessDefine p s)
    else .ok (ignoreReserved p (.subtype 2 sub) s) := by
  obtain ⟨htype, hsub⟩ := h.split
  have htype' : getValue p 0 2 = .ok 2 := htype.getValue_eq rfl
  have hsub' : getValue p 2 2 = .ok sub.toNat := hsub.getValue_bv_eq
  rw [dissectOne, htype', ok_bind, hsub', ok_bind, BitVec.ofNat_toNat, BitVec.setWidth_eq]
  rfl

/-- Type 11, which is MAC-D-BLCK on SCH_F alone. -/
theorem dissectOne_type11 (h : StandsAt p 0 [true, true]) : dissectOne p ch s =
    if ch = .schF then dissectMacDBlck p s else .ok (ignoreReserved p (.channel 3 ch) s) := by
  have htype : getValue p 0 2 = .ok 3 := h.getValue_eq rfl
  rw [dissectOne, htype, ok_bind]
  rfl

end

/-! ### Each unit and its row dissect the same PDU -/

section
variable {g : Bits} {ch : SigChannel} {s : State} {i : Instr}

/-- An operation that runs a unit, and a row whose PDU is routed to that unit. -/
theorem exec_unitRows {op row : Instr} {code : BitVec 4} {rest : Bits} {x : Except OutOfRange (UnitResult × State)}
    (hop : exec op s = answerUnit s x) (hrow : exec row s = dissectRow code rest ch s) (hpdu : pduOf code rest = g)
    (hroute : dissectOne g ch s = x) (hi : i ∈ [op, row]) : exec i s = answerUnit s x := by
  simp only [List.mem_cons, List.not_mem_nil, or_false] at hi
  rcases hi with rfl | rfl
  · exact hop
  · rw [hrow, dissectRow, hpdu, hroute]

theorem exec_macResource_rows {fill grant : BitVec 1} {e : Bits}
    (hg : StandsAt g 0 ([false, false] ++ bvToBits fill ++ bvToBits grant ++ e))
    (hi : i ∈ [Instr.dissectMacResource g ch, .macResource (fill ++ grant) (g.drop 4) ch]) :
    exec i s = answerUnit s (dissectMacResource g ch s) := by
  have hcode : bvToBits (0b00#2 ++ (fill ++ grant)) = [false, false] ++ bvToBits fill ++ bvToBits grant := by
    rw [bvToBits_append, bvToBits_append, ← List.append_assoc]
    rfl
  obtain ⟨hrow, -⟩ := hg.split
  exact exec_unitRows rfl rfl (pduOf_drop (hcode ▸ hrow)) (dissectOne_macResource ch s hrow.split.1.split.1) hi

theorem exec_macFrag_rows {fill : BitVec 1} {rest : Bits} (hg : g = bvToBits 0b010#3 ++ bvToBits fill ++ rest)
    (hi : i ∈ [Instr.dissectMacFrag g ch, .macFrag fill rest ch]) : exec i s = answerUnit s (dissectMacFrag g s) := by
  have hpdu : pduOf (0b010#3 ++ fill) rest = g := by rw [hg, pduOf, bvToBits_append]
  have htype : StandsAt g 0 (bvToBits 0b010#3) := by
    rw [hg, List.append_assoc]
    exact standsAt_start ..
  exact exec_unitRows rfl rfl hpdu (dissectOne_macFrag ch s htype) hi

theorem exec_macEnd_rows {fill : BitVec 1} {e : Bits} (hg : StandsAt g 0 ([false, true, true] ++ bvToBits fill ++ e))
    (hi : i ∈ [Instr.dissectMacEnd g ch, .macEnd fill (g.drop 4) ch]) :
    exec i s = answerUnit s (dissectMacEnd g ch s) := by
  have hcode : bvToBits (0b011#3 ++ fill) = [false, true, true] ++ bvToBits fill := bvToBits_append ..
  obtain ⟨hrow, -⟩ := hg.split
  exact exec_unitRows rfl rfl (pduOf_drop (hcode ▸ hrow)) (dissectOne_macEnd ch s hrow.split.1) hi

theorem exec_macDBlck_rows {x fill : BitVec 1} {e : Bits}
    (hg : StandsAt g 0 ([true, true] ++ bvToBits x ++ bvToBits fill ++ e))
    (hi : i ∈ [Instr.dissectMacDBlck g, .macDBlck (x ++ fill) (g.drop 4)]) :
    exec i s = answerUnit s (dissectMacDBlck g s) := by
  have hcode : bvToBits (0b11#2 ++ (x ++ fill)) = [true, true] ++ bvToBits x ++ bvToBits fill := by
    rw [bvToBits_append, bvToBits_append, ← List.append_assoc]
    rfl
  obtain ⟨hrow, -⟩ := hg.split
  have hroute := (dissectOne_type11 .schF s hrow.split.1.split.1).trans (if_pos rfl)
  exact exec_unitRows (ch := .schF) rfl rfl (pduOf_drop (hcode ▸ hrow)) hroute hi

end

/-! ### What stands at a position, extracted -/

/-- A field extracted where it stands (40 R142). -/
theorem StandsAt.extract_eq {p e : Bits} {pos n : Nat} (h : StandsAt p pos e) (hn : e.length = n) : extract p pos n = e := by
  obtain ⟨pre, post, rfl, rfl⟩ := h
  subst hn
  rw [Sys2Proof.Machine.extract_eq, Int.toNat_natCast, Int.toNat_natCast, List.append_assoc, List.drop_left, List.take_left]

/-- All that stands from a position on (40 R144). -/
theorem extract_rest (p : Bits) (pos : Nat) : extract p pos (p.length - pos) = p.drop pos := fromOffset_none p pos

theorem State.emit_of_ne_nil {v : Bits} (s : State) (ch : LogicalChannel) (h : v ≠ []) :
    s.emit ch v = s.push (.emission ⟨ch, v, s.addr, s.time⟩) := if_neg (by simpa using h)

/-! ### BSCH -/

theorem exec_dissectBsch (b : Bits) (s : State) : exec (.dissectBsch b) s = answerPlain s (dissectBsch b s) := rfl

/-- A BSCH of exactly 60 bits, field by field (30 R86). -/
def bschBlock (sys : BitVec 4) (cc : BitVec 6) (tn : BitVec 2) (fn : BitVec 5) (mn : BitVec 6) (x : BitVec 8)
    (mcc : BitVec 10) (mnc : BitVec 14) (y : BitVec 5) : Bits :=
  bvToBits sys ++ bvToBits cc ++ bvToBits tn ++ bvToBits fn ++ bvToBits mn ++ bvToBits x ++ bvToBits mcc ++ bvToBits mnc ++
    bvToBits y

section
variable (sys : BitVec 4) (cc : BitVec 6) (tn : BitVec 2) (fn : BitVec 5) (mn : BitVec 6) (x : BitVec 8) (mcc : BitVec 10)
  (mnc : BitVec 14) (y : BitVec 5) (s : State)

/-- What the reads of a BSCH give, and its last 29 bits (45 R283). -/
theorem parseBsch_bschBlock :
    parseBsch (bschBlock sys cc tn fn mn x mcc mnc y) = .ok ⟨cc, tn.toNat, fn.toNat, mn.toNat, mcc, mnc⟩ ∧
      extract (bschBlock sys cc tn fn mn x mcc mnc y) 31 29 = bvToBits mcc ++ bvToBits mnc ++ bvToBits y := by
  generalize hb : bschBlock sys cc tn fn mn x mcc mnc y = b
  have h : StandsAt b 0 b := ⟨[], [], by simp, rfl⟩
  nth_rewrite 2 [← hb] at h
  simp only [bschBlock, List.append_assoc] at h
  obtain ⟨hsys, h⟩ := h.split
  obtain ⟨hcc, h⟩ := h.split
  obtain ⟨htn, h⟩ := h.split
  obtain ⟨hfn, h⟩ := h.split
  obtain ⟨hmn, h⟩ := h.split
  obtain ⟨-, hsdu⟩ := h.split
  obtain ⟨hmcc, h⟩ := hsdu.split
  obtain ⟨hmnc, -⟩ := h.split
  simp only [bvToBits_length, Nat.reduceAdd] at hcc htn hfn hmn hsdu hmcc hmnc
  constructor
  · rw [parseBsch, hsys.consume_eq (bvToBits_length sys), ok_bind, hcc.getValue_bv_eq, ok_bind, htn.getValue_bv_eq, ok_bind,
      hfn.getValue_bv_eq, ok_bind, hmn.getValue_bv_eq, ok_bind, hmcc.getValue_bv_eq, ok_bind, hmnc.getValue_bv_eq, ok_bind,
      pure_eq_ok]
    simp only [BitVec.ofNat_toNat, BitVec.setWidth_eq]
  · rw [List.append_assoc]
    exact hsdu.extract_eq (by simp)

theorem dissectBsch_bschBlock : dissectBsch (bschBlock sys cc tn fn mn x mcc mnc y) s =
    .ok (commitBsch ⟨cc, tn.toNat, fn.toNat, mn.toNat, mcc, mnc⟩ (bschBlock sys cc tn fn mn x mcc mnc y) s) := by
  have hlong : ¬ (bschBlock sys cc tn fn mn x mcc mnc y).length < bschMin := by simp [bschBlock, bschMin]
  obtain ⟨hparse, -⟩ := parseBsch_bschBlock sys cc tn fn mn x mcc mnc y
  rw [dissectBsch, if_neg hlong, hparse, ok_bind, pure_eq_ok]

theorem exec_dissectBsch_bschBlock {u : State}
    (h : commitBsch ⟨cc, tn.toNat, fn.toNat, mn.toNat, mcc, mnc⟩ (bschBlock sys cc tn fn mn x mcc mnc y) s = u) :
    exec (.dissectBsch (bschBlock sys cc tn fn mn x mcc mnc y)) s = .next (u.returns .none) := by
  rw [exec_dissectBsch, dissectBsch_bschBlock, h]
  rfl

/-- The writes of a BSCH, up to what `TIME_SET` does with its time (45 R283). -/
theorem commitBsch_bschBlock {u : State} {t : TetraTime}
    (hset : timeSet tn.toNat fn.toNat mn.toNat
      (s.setCell ⟨mcc, mnc, cc, scrambleInit s.params mcc mnc cc, s.cell.downlinkFreqHz⟩) = u)
    (hburst : u.burst = s.burst) (haddr : u.addr = s.addr) (htime : u.time = t) :
    commitBsch ⟨cc, tn.toNat, fn.toNat, mn.toNat, mcc, mnc⟩ (bschBlock sys cc tn fn mn x mcc mnc y) s =
      (u.log (.macSync s.burst.type cc (tn.toNat + 1) fn.toNat mn.toNat mcc mnc)).push
        (.emission ⟨.bsch, bvToBits mcc ++ bvToBits mnc ++ bvToBits y, s.addr, t⟩) := by
  obtain ⟨-, hsdu⟩ := parseBsch_bschBlock sys cc tn fn mn x mcc mnc y
  have hne : bvToBits mcc ++ bvToBits mnc ++ bvToBits y ≠ [] := List.ne_nil_of_length_pos (by simp)
  rw [commitBsch, hset, hsdu]
  simp only
  rw [State.emit_of_ne_nil _ _ hne, State.log_addr, State.log_time, hburst, haddr, htime]

end

/-- The time code of a BSCH is always in range, so the frame and the multiframe decide (42 R201). -/
theorem timeOfCode_wf_iff (tn : BitVec 2) (fn : BitVec 5) (mn : BitVec 6) :
    (⟨tn.toNat + 1, fn.toNat, mn.toNat⟩ : TetraTime).wf = true ↔
      1 ≤ fn.toNat ∧ fn.toNat ≤ 18 ∧ 1 ≤ mn.toNat ∧ mn.toNat ≤ 60 := by
  have := tn.isLt
  simp only [TetraTime.wf, Bool.and_eq_true, decide_eq_true_eq]
  omega

/-- Settles O45: the two cases of `TIME_SET`, and the short block. -/
theorem bschUpdatesCell : Obligations.BschUpdatesCell := by
  intro sys cc tn fn mn x mcc mnc y s b c sync t sdu
  refine ⟨fun hwf => exec_dissectBsch_bschBlock sys cc tn fn mn x mcc mnc y s ?inRange,
    fun hwf => exec_dissectBsch_bschBlock sys cc tn fn mn x mcc mnc y s ?outOfRange, fun v hv => ?short⟩
  case inRange =>
    have hset := timeSet_of_inRange tn.toNat c ((timeOfCode_wf_iff tn fn mn).mp hwf)
    exact commitBsch_bschBlock sys cc tn fn mn x mcc mnc y s hset rfl rfl rfl
  case outOfRange =>
    have hset := timeSet_of_outOfRange tn.toNat c fun h => Bool.false_ne_true (hwf.symm.trans ((timeOfCode_wf_iff tn fn mn).mpr h))
    exact commitBsch_bschBlock sys cc tn fn mn x mcc mnc y s hset rfl rfl rfl
  case short =>
    have hshort : dissectBsch v s = .ok (s.log (.shortPdu .bsch v.length)) := if_pos hv
    rw [exec_dissectBsch, answerPlain_of_ok hshort]

/-! ### SYSINFO -/

/-- The first four fields of a SYSINFO give the frequency; 60 bits more are read and discarded (45 R284, 30 R96). -/
theorem parseSysinfo_eq {p pass : Bits} {mc : BitVec 12} {band : BitVec 4} {off : BitVec 2}
    (h : StandsAt p 0 (bvToBits 0b1000#4 ++ (bvToBits mc ++ (bvToBits band ++ (bvToBits off ++ pass)))))
    (hpass : pass.length = 60) : parseSysinfo p = .ok (downlinkFrequency band.toNat mc.toNat off.toNat) := by
  obtain ⟨-, h⟩ := h.split
  obtain ⟨hmc, h⟩ := h.split
  obtain ⟨hband, h⟩ := h.split
  obtain ⟨hoff, hrest⟩ := h.split
  simp only [bvToBits_length, Nat.reduceAdd] at hmc hband hoff hrest
  have hall : consumeAll p 22 [3, 1, 2, 3, 4, 4, 4, 1, 16, 2, 20] = .ok 82 := hrest.consumeAll_eq hpass
  rw [parseSysinfo, hmc.getValue_bv_eq, ok_bind, hband.getValue_bv_eq, ok_bind, hoff.getValue_bv_eq, ok_bind, hall, ok_bind,
    pure_eq_ok]

theorem duplexOffset_eq : ∀ off : BitVec 2, duplexOffset off.toNat = [0, 6250, -6250, 12500].getD off.toNat 0 := by decide

/-- A SYSINFO that is long enough (45 R284). -/
theorem dissectSysinfo_eq {p : Bits} {f : Int} (ch : SigChannel) (s : State) (hl : 82 ≤ p.length) (hf : parseSysinfo p = .ok f) :
    dissectSysinfo p ch s = .ok (⟨.sysinfo, p, some 124⟩,
      (s.setCell { s.cell with downlinkFreqHz := f }).emit ch.toLogical ((p.drop 82).take 42)) := by
  have hlong : ¬ p.length < sysinfoMin := Nat.not_lt.mpr hl
  rw [dissectSysinfo, if_neg hlong, hf, ok_bind, extract_eq]
  rfl

theorem dissectSysinfo_short {p : Bits} (ch : SigChannel) (s : State) (hl : p.length < 82) :
    dissectSysinfo p ch s = .ok (⟨.short, p, none⟩, s.log (.shortPdu .sysinfo p.length)) := if_pos hl

/-- The row SYSINFO runs the dissector of its PDU. -/
theorem exec_sysinfo (body : Bits) (ch : SigChannel) (s : State) :
    exec (.sysinfo body ch) s = answerUnit s (dissectSysinfo (bvToBits 0b1000#4 ++ body) ch s) := by
  have hroute := dissectOne_type10 (sub := 0b00#2) ch s (standsAt_start (bvToBits 0b1000#4) body)
  exact congrArg (answerUnit s) hroute

/-- Settles O46: the frequency by the fields that give it, and the length against 82. -/
theorem sysinfoSetsFrequency : Obligations.SysinfoSetsFrequency := by
  refine ⟨?long, ?short⟩
  case long =>
    intro mc band off rest ch s body p f t hl
    have hrest : 60 ≤ rest.length := by simp [p, body] at hl; omega
    have hp : p = bvToBits 0b1000#4 ++ (bvToBits mc ++ (bvToBits band ++ (bvToBits off ++ rest.take 60))) ++ rest.drop 60 := by
      simp only [p, body, List.append_assoc, List.take_append_drop]
    have hparse : parseSysinfo p = .ok f := by
      rw [parseSysinfo_eq (hp ▸ standsAt_start ..) (by simpa using hrest), downlinkFrequency, duplexOffset_eq]
    have hunit := dissectSysinfo_eq ch s hl hparse
    exact ⟨answerUnit_of_ok hunit, (exec_sysinfo body ch s).trans (answerUnit_of_ok hunit)⟩
  case short =>
    intro p body ch s short
    refine ⟨fun hl => answerUnit_of_ok (dissectSysinfo_short ch s hl), fun hl => ?_⟩
    have hl' : (bvToBits 0b1000#4 ++ body).length < 82 := by rw [List.length_append, bvToBits_length]; omega
    exact (exec_sysinfo body ch s).trans (answerUnit_of_ok (dissectSysinfo_short ch s hl'))

/-! ### MAC-FRAG -/

theorem dissectMacFrag_eq {g p : Bits} {fill : BitVec 1} {k : Nat} {s : State}
    (hfilled : FilledFrom s.keepFillBits fill k p g) (hfill : StandsAt g 3 (bvToBits fill)) :
    dissectMacFrag g s = .ok (⟨.frag, p, none⟩, fragAppend (p.drop 4) s.addr s) := by
  have hrest : extract p 4 (p.length - 4) = p.drop 4 := extract_rest p 4
  rw [dissectMacFrag, hfill.getValue_bv_eq, ok_bind, hfilled.strippedIf_eq, ← hrest]
  rfl

/-- A MAC-FRAG and its row, on a PDU with or without fill bits behind it. -/
theorem exec_macFrag_next {g p rest : Bits} {fill : BitVec 1} {k : Nat} {ch : SigChannel} {s : State} {i : Instr}
    (hfilled : FilledFrom s.keepFillBits fill k p g) (hg : g = bvToBits 0b010#3 ++ bvToBits fill ++ rest)
    (hi : i ∈ [Instr.dissectMacFrag g ch, .macFrag fill rest ch]) :
    exec i s = .next ((fragAppend (p.drop 4) s.addr s).returns (.unit ⟨.frag, p, none⟩)) := by
  have hfill : StandsAt g 3 (bvToBits fill) := hg ▸ standsAt_middle (bvToBits 0b010#3) (bvToBits fill) rest
  rw [exec_macFrag_rows hg hi, answerUnit_of_ok (dissectMacFrag_eq hfilled hfill)]

/-- Settles O52: without fill bits to strip, with them, and with the flag itself as the last 1. -/
theorem macFragAppends : Obligations.MacFragAppends := by
  intro fill v x k ch s
  refine ⟨fun hkeep i hi => ?kept, fun hstrip i hi => ?stripped, fun hstrip i hi => ?empty⟩
  case kept =>
    have hfilled : FilledFrom s.keepFillBits fill k (bvToBits 0b010#3 ++ bvToBits fill ++ v) _ := .inl ⟨hkeep, rfl⟩
    rw [exec_macFrag_next hfilled rfl hi, List.drop_left' (by simp)]
  case stripped =>
    have hfilled : FilledFrom s.keepFillBits 1 k (bvToBits 0b0101#4 ++ x) (bvToBits 0b0101#4 ++ appendFillBits x k) :=
      .inr ⟨rfl, hstrip, by rw [appendFillBits, appendFillBits, List.append_assoc]⟩
    rw [exec_macFrag_next hfilled rfl hi, List.drop_left' (bvToBits_length _)]
  case empty =>
    have hfilled : FilledFrom s.keepFillBits 1 k (bvToBits 0b010#3) (bvToBits 0b0101#4 ++ List.replicate k false) :=
      .inr ⟨rfl, hstrip, rfl⟩
    rw [exec_macFrag_next hfilled rfl hi, List.drop_eq_nil_of_le (by simp)]

/-! ### MAC-D-BLCK -/

/-- The fields of a MAC-D-BLCK, up to its TM-SDU (45 R292, 90 C15). -/
theorem dissectMacDBlck_eq {g p sdu : Bits} {x fill nap : BitVec 1} {enc : BitVec 2} {el : BitVec 10} {sg : BitVec 8} {slots : Bits}
    {k : Nat} {s : State} (hslots : slots ∈ [[false], true :: bvToBits sg])
    (hp : p = [true, true] ++ bvToBits x ++ bvToBits fill ++ bvToBits enc ++ bvToBits el ++ bvToBits nap ++ slots ++ sdu)
    (hfilled : FilledFrom s.keepFillBits fill k p g) :
    dissectMacDBlck g s = .ok (⟨.dBlck, p, none⟩,
      (s.setAddr { s.addr with encryptionMode := enc, eventLabel := el }).emit .schF sdu) := by
  have h : StandsAt p 0 p := ⟨[], [], by simp, rfl⟩
  nth_rewrite 2 [hp] at h
  simp only [List.append_assoc] at h
  obtain ⟨-, h⟩ := h.split
  obtain ⟨-, h⟩ := h.split
  obtain ⟨hfill, h⟩ := h.split
  obtain ⟨henc, h⟩ := h.split
  obtain ⟨hel, h⟩ := h.split
  obtain ⟨hnap, h⟩ := h.split
  obtain ⟨hs, -⟩ := h.split
  simp only [bvToBits_length, List.length_cons, List.length_nil, Nat.reduceAdd] at hfill henc hel hnap hs
  have hsdu : p.drop (17 + slots.length) = sdu := by
    rw [hp]
    exact List.drop_left' (by simp; omega)
  rw [dissectMacDBlck, (hfilled.standsAt hfill).getValue_bv_eq, ok_bind, hfilled.strippedIf_eq]
  simp only
  rw [henc.getValue_bv_eq, ok_bind, hel.getValue_bv_eq, ok_bind, hnap.consume_eq (bvToBits_length nap), ok_bind,
    hs.consumeOptional_eq hslots (bvToBits_length sg), ok_bind, extract_rest, hsdu, BitVec.ofNat_toNat, BitVec.ofNat_toNat,
    BitVec.setWidth_eq, BitVec.setWidth_eq]
  rfl

/-- Settles O54: the operation and its row dissect the same PDU, field by field. -/
theorem macDBlckEmitsRemainder : Obligations.MacDBlckEmitsRemainder := by
  intro x fill nap enc el sg k sdu g s slots hslots p t hfilled
  have hstart : StandsAt p 0 ([true, true] ++ bvToBits x ++ bvToBits fill ++
      (bvToBits enc ++ bvToBits el ++ bvToBits nap ++ slots ++ sdu)) := ⟨[], [], by simp [p], rfl⟩
  have hboth : ∀ i ∈ [Instr.dissectMacDBlck g, .macDBlck (x ++ fill) (g.drop 4)], exec i s = .next t := fun i hi => by
    rw [exec_macDBlck_rows (FilledFrom.standsAt hfilled hstart) hi, answerUnit_of_ok (dissectMacDBlck_eq hslots rfl hfilled)]
  exact ⟨hboth _ (by simp), hboth _ (by simp)⟩

/-! ### The end of a header: the channel-allocation flag -/

theorem getValue_head {p post : Bits} {b : Bool} (pre : Bits) (hp : p = pre ++ post) (hb : post.head? = some b) :
    getValue p pre.length 1 = .ok b.toNat := by
  obtain ⟨rest, rfl⟩ : ∃ rest, post = b :: rest := List.head?_eq_some_iff.mp hb
  have h : StandsAt p pre.length [b] := ⟨pre, rest, by rw [hp, List.append_assoc]; rfl, rfl⟩
  have hbit : bitsToNat [b] = b.toNat := by cases b <;> rfl
  rw [← hbit]
  exact h.getValue_eq rfl

/-- `PARSE_CHAN_ALLOC` as an operation returns a position only where the parse gives it (45 R289). -/
theorem parseChanAlloc_of_exec {p : Bits} {pos q : Nat} {s : State}
    (h : exec (.parseChanAlloc p pos) s = .next (s.returns (.position q))) : parseChanAlloc s.time.fn p pos = .ok q := by
  have hresult : positionResult (parseChanAlloc s.time.fn p pos) = .position q :=
    (congrArg State.result (answer_next.mp h)).symm
  cases hx : parseChanAlloc s.time.fn p pos with
  | error e => rw [hx] at hresult; cases hresult
  | ok q' => rw [hx] at hresult; cases hresult; rfl

/-- The header ends behind the flag, or behind the element that the flag announces (45 R286, R291). -/
theorem parseChanAllocFlag_eq {head p post : Bits} {q : Nat} {s : State} (hp : p = head ++ post)
    (hq : post.head? = some false ∧ q = head.length + 1 ∨
      post.head? = some true ∧ exec (.parseChanAlloc p (head.length + 1)) s = .next (s.returns (.position q))) :
    parseChanAllocFlag s.time.fn p head.length = .ok q := by
  rcases hq with ⟨hflag, rfl⟩ | ⟨hflag, hexec⟩
  · rw [parseChanAllocFlag, getValue_head head hp hflag]
    rfl
  · rw [parseChanAllocFlag, getValue_head head hp hflag]
    exact parseChanAlloc_of_exec hexec

/-! ### MAC-END -/

theorem addr_fragAppend (v : Bits) (a : MacAddress) (s : State) : (fragAppend v a s).addr = s.addr := by
  unfold fragAppend fragStop
  repeat' split
  all_goals rfl

/-- The commit of a MAC-END, by whether the slot is still running after the append (45 R291, 46 R363, R364). -/
theorem commitMacEnd_running {p : Bits} {ch : SigChannel} {pos : Nat} {s a : State} (ha : fragAppend (p.drop pos) s.addr s = a)
    (hrun : a.frag.stopped = false) : commitMacEnd p ch pos s =
      ((a.emit ch.toLogical a.frag.buffer).setFrag { a.frag with buffer := [], stopped := true }).setMarkerEncryption
        s.addr.usageMarker s.addr.encryptionMode := by
  have haddr : a.addr = s.addr := ha ▸ addr_fragAppend ..
  have hsdu : fragSdu a = a.frag.buffer := if_neg (by simp [hrun])
  simp only [commitMacEnd, extract_rest, ha, hsdu, fragStop, State.emit_frag, State.setFrag_addr, State.emit_addr, haddr]

theorem commitMacEnd_stopped {p : Bits} {ch : SigChannel} {pos : Nat} {s a : State} (ha : fragAppend (p.drop pos) s.addr s = a)
    (hstop : a.frag.stopped = true) : commitMacEnd p ch pos s =
      (a.setFrag { a.frag with buffer := [] }).setMarkerEncryption s.addr.usageMarker s.addr.encryptionMode := by
  have haddr : a.addr = s.addr := ha ▸ addr_fragAppend ..
  have hsdu : fragSdu a = [] := if_pos hstop
  have hemit : a.emit ch.toLogical [] = a := if_pos rfl
  simp only [commitMacEnd, extract_rest, ha, hsdu, hemit, fragStop, State.setFrag_addr, haddr, hstop]

section
variable {g p post slots head : Bits} {fill grant : BitVec 1} {li : BitVec 6} {sg : BitVec 8} {k : Nat} {ch : SigChannel} {s : State}

/-- A MAC-END, up to its length indication (45 R291). -/
theorem dissectMacEnd_eq (hp : p = head ++ post)
    (hhead : head = [false, true, true] ++ bvToBits fill ++ bvToBits grant ++ bvToBits li ++ slots)
    (hslots : slots ∈ [[false], true :: bvToBits sg]) (hfilled : FilledFrom s.keepFillBits fill k p g) :
    dissectMacEnd g ch s =
      if li.toNat < 2 ∨ li.toNat > 34 then .ok (⟨.dropped, p, none⟩, s.log (.endLength li))
      else parseChanAllocFlag s.time.fn p head.length >>= fun pos => .ok (⟨.fragEnd, p, none⟩, commitMacEnd p ch pos s) := by
  have h : StandsAt p 0 (head ++ post) := ⟨[], [], by simp [hp], rfl⟩
  rw [hhead] at h
  simp only [List.append_assoc] at h
  obtain ⟨-, h⟩ := h.split
  obtain ⟨hfill, h⟩ := h.split
  obtain ⟨hgrant, h⟩ := h.split
  obtain ⟨hli, h⟩ := h.split
  obtain ⟨hs, -⟩ := h.split
  simp only [bvToBits_length, List.length_cons, List.length_nil, Nat.reduceAdd] at hfill hgrant hli hs
  have hpos : head.length = 11 + slots.length := by simp [hhead]; omega
  rw [dissectMacEnd, (hfilled.standsAt hfill).getValue_bv_eq, ok_bind, hfilled.strippedIf_eq]
  simp only
  rw [hgrant.consume_eq (bvToBits_length grant), ok_bind, hli.getValue_bv_eq, ok_bind,
    hs.consumeOptional_eq hslots (bvToBits_length sg), ok_bind, BitVec.ofNat_toNat, BitVec.setWidth_eq, hpos]
  rfl

end

/-- Settles O53: the length indication is legal or not, and the slot runs on or not. -/
theorem macEndEmitsReassembly : Obligations.MacEndEmitsReassembly := by
  intro fill grant li sg k q post g ch s slots hslots head p flag a hfilled i hi
  have hstart : StandsAt p 0 ([false, true, true] ++ bvToBits fill ++ (bvToBits grant ++ bvToBits li ++ slots ++ post)) :=
    ⟨[], [], by simp [p, head], rfl⟩
  have hunit := dissectMacEnd_eq (ch := ch) (p := p) rfl rfl hslots hfilled
  rw [exec_macEnd_rows (FilledFrom.standsAt hfilled hstart) hi]
  refine ⟨fun hq hlow hhigh => ?legal, fun hli => ?illegal⟩
  case legal =>
    have hlegal : ¬ (li.toNat < 2 ∨ li.toNat > 34) := by omega
    rw [if_neg hlegal, parseChanAllocFlag_eq rfl hq, ok_bind] at hunit
    refine ⟨fun hrun => ?_, fun hstop => ?_⟩
    · rw [answerUnit_of_ok hunit, commitMacEnd_running rfl hrun]
    · rw [answerUnit_of_ok hunit, commitMacEnd_stopped rfl hstop]
  case illegal =>
    rw [if_pos hli] at hunit
    exact answerUnit_of_ok hunit

/-! ### MAC-RESOURCE -/

/-- The start of a MAC-RESOURCE, up to its address type (30 R89). -/
def resourceStart (fill grant : BitVec 1) (enc : BitVec 2) (access : BitVec 1) (li : BitVec 6) (ty : BitVec 3) : Bits :=
  [false, false] ++ bvToBits fill ++ bvToBits grant ++ bvToBits enc ++ bvToBits access ++ bvToBits li ++ bvToBits ty

/-- What is read behind the address type: the address, two optional elements, and the channel allocation (45 R286). -/
def parseAddressed (fn : Nat) (p : Bits) (enc : BitVec 2) (li : BitVec 6) (ty : BitVec 3) : Except OutOfRange ResourceHeader := do
  let (a, pos) ← parseAddress p 16 ty.toNat
  let pos ← consumeOptional p pos 4
  let pos ← consumeOptional p pos 8
  let pos ← parseChanAllocFlag fn p pos
  pure (.addressed p enc li ty.toNat a pos)

section
variable {g p rest : Bits} {fill grant access : BitVec 1} {enc : BitVec 2} {li : BitVec 6} {ty : BitVec 3} {keep : Bool}
  {k : Nat} {ch : SigChannel} {s : State}

theorem parseMacResource_eq (fn : Nat) (hp : p = resourceStart fill grant enc access li ty ++ rest)
    (hfilled : FilledFrom keep fill k p g) :
    parseMacResource keep fn g = if ty.toNat = 0 then .ok (.null p) else parseAddressed fn p enc li ty := by
  have h : StandsAt p 0 (resourceStart fill grant enc access li ty) := hp ▸ standsAt_start ..
  simp only [resourceStart, List.append_assoc] at h
  obtain ⟨-, h⟩ := h.split
  obtain ⟨hfill, h⟩ := h.split
  obtain ⟨hgrant, h⟩ := h.split
  obtain ⟨henc, h⟩ := h.split
  obtain ⟨haccess, h⟩ := h.split
  obtain ⟨hli, hty⟩ := h.split
  simp only [bvToBits_length, List.length_cons, List.length_nil, Nat.reduceAdd] at hfill hgrant henc haccess hli hty
  rw [parseMacResource, (hfilled.standsAt hfill).getValue_bv_eq, ok_bind, hfilled.strippedIf_eq]
  simp only
  rw [hgrant.consume_eq (bvToBits_length grant), ok_bind, henc.getValue_bv_eq, ok_bind,
    haccess.consume_eq (bvToBits_length access), ok_bind, hli.getValue_bv_eq, ok_bind, hty.getValue_bv_eq, ok_bind,
    BitVec.ofNat_toNat, BitVec.ofNat_toNat, BitVec.setWidth_eq, BitVec.setWidth_eq]
  rfl

/-- A PDU that begins as a MAC-RESOURCE, with or without fill bits behind it, as an operation and as the row. -/
theorem exec_macResource_start {i : Instr} (hp : p = resourceStart fill grant enc access li ty ++ rest)
    (hfilled : FilledFrom s.keepFillBits fill k p g)
    (hi : i ∈ [Instr.dissectMacResource g ch, .macResource (fill ++ grant) (g.drop 4) ch]) :
    exec i s = answerUnit s (dissectMacResource g ch s) := by
  have hstart : StandsAt p 0 ([false, false] ++ bvToBits fill ++ bvToBits grant ++
      (bvToBits enc ++ bvToBits access ++ bvToBits li ++ bvToBits ty)) :=
    ⟨[], rest, by simp only [hp, resourceStart, List.append_assoc, List.nil_append], rfl⟩
  exact exec_macResource_rows (hfilled.standsAt hstart) hi

/-- Address type 000: the unit answers the PDU and writes nothing (45 R286). -/
theorem dissectMacResource_null (hp : p = resourceStart fill grant enc access li 0 ++ rest)
    (hfilled : FilledFrom s.keepFillBits fill k p g) :
    dissectMacResource g ch s = .ok (⟨.null, p, some (-1)⟩, s) := by
  rw [dissectMacResource, parseMacResource_eq s.time.fn hp hfilled]
  rfl

/-- Any other type: the address is committed, and then the length indication acts (45 R286). -/
theorem dissectMacResource_addressed {a : MacAddress} {q : Nat} (hp : p = resourceStart fill grant enc access li ty ++ rest)
    (hfilled : FilledFrom s.keepFillBits fill k p g) (hty : ty ≠ 0)
    (hparse : parseAddressed s.time.fn p enc li ty = .ok (.addressed p enc li ty.toNat a q)) :
    dissectMacResource g ch s = .ok (commitLength p ch li q (commitAddress a enc ty.toNat s)) := by
  have hne : ¬ ty.toNat = 0 := fun h => hty (BitVec.eq_of_toNat_eq h)
  rw [dissectMacResource, parseMacResource_eq s.time.fn hp hfilled, if_neg hne, hparse]
  rfl

/-- The reads behind the address type, where the address and the optional elements stand (45 R286, 30 R89). -/
theorem parseAddressed_eq {fields power slots head post : Bits} {a : MacAddress} {pc : BitVec 4} {sg : BitVec 8} {q : Nat}
    (hp : p = head ++ post) (hhead : head = resourceStart fill grant enc access li ty ++ fields ++ power ++ slots)
    (hlayout : AddressLayout ty fields a) (hpower : power ∈ [[false], true :: bvToBits pc])
    (hslots : slots ∈ [[false], true :: bvToBits sg])
    (hq : parseChanAllocFlag s.time.fn p head.length = .ok q) :
    parseAddressed s.time.fn p enc li ty = .ok (.addressed p enc li ty.toNat a q) := by
  have hlen : (resourceStart fill grant enc access li ty).length = 16 := by simp [resourceStart]
  have h : StandsAt p 0 (head ++ post) := ⟨[], [], by simp [hp], rfl⟩
  rw [hhead] at h
  simp only [List.append_assoc] at h
  obtain ⟨-, h⟩ := h.split
  obtain ⟨hfields, h⟩ := h.split
  obtain ⟨hpower', h⟩ := h.split
  obtain ⟨hslots', -⟩ := h.split
  simp only [hlen, Nat.zero_add] at hfields hpower' hslots'
  have hflag : 16 + fields.length + power.length + slots.length = head.length := by simp [hhead, hlen]; omega
  rw [parseAddressed, hlayout.parseAddress_eq hfields, ok_bind]
  simp only
  rw [hpower'.consumeOptional_eq hpower (bvToBits_length pc), ok_bind,
    hslots'.consumeOptional_eq hslots (bvToBits_length sg), ok_bind, hflag, hq, ok_bind, pure_eq_ok]

end

/-- The address a MAC-RESOURCE commits; type 110 also records the encryption mode of its usage marker (45 R286, 10 R33). -/
theorem commitAddress_eq {ty : BitVec 3} {a : MacAddress} {um : BitVec 6} (enc : BitVec 2) (s : State)
    (hum : ty = 6 → a.usageMarker = um) : commitAddress a enc ty.toNat s =
      if ty = 6 then (s.setAddr { a with encryptionMode := enc }).setMarkerEncryption um enc
      else s.setAddr { a with encryptionMode := enc } := by
  have hty : ty.toNat = 0b110 ↔ ty = 6 := BitVec.toNat_inj (y := 6)
  by_cases h : ty = 6
  · rw [commitAddress, if_pos (hty.mpr h), if_pos h, hum h]
  · rw [commitAddress, if_neg (mt hty.mp h), if_neg h]

/-! ### The length indication -/

section
variable (p : Bits) (ch : SigChannel) {li : BitVec 6} (q : Nat) (t : State)

theorem commitLength_fragStart (h : li.toNat = 63) : commitLength p ch li q t =
    (⟨.fragStart, p, none⟩, fragAppend (p.drop q) t.addr (fragStart t.addr t.time t)) := by
  have hli : li = 0b111111 := BitVec.eq_of_toNat_eq h
  rw [commitLength, if_pos hli, extract_rest]

theorem commitLength_reserved (h : li.toNat = 0 ∨ li.toNat = 59 ∨ li.toNat = 60 ∨ li.toNat = 61) :
    commitLength p ch li q t = (⟨.reservedLength, p, none⟩, t.log (.reservedLength li)) := by
  have hli : li ≠ 0b111111 := fun he => by rw [he] at h; revert h; decide
  have hzero : decodeLength li = 0 := by rw [decodeLength_eq, if_pos h]
  rw [commitLength, if_neg hli, if_pos hzero]

/-- The SDU ends with the octets of the length indication (45 R286). -/
theorem extract_toOctets (n : Nat) : extract p q ((n * 8 : Nat) - q) = (p.drop q).take (n * 8 - q) := by
  rw [extract_eq, Int.toNat_natCast]
  congr 1
  omega

theorem commitLength_resource (h : 1 ≤ li.toNat) (h' : li.toNat ≤ 58) : commitLength p ch li q t =
    (⟨.resource, p, some (8 * li.toNat)⟩, t.emit ch.toLogical ((p.drop q).take (8 * li.toNat - q))) := by
  have hstart : li ≠ 0b111111 := fun he => by rw [he] at h'; revert h'; decide
  have hstolen : li ≠ 0b111110 := fun he => by rw [he] at h'; revert h'; decide
  have hlength : decodeLength li = li.toNat := by rw [decodeLength_eq, if_neg (by omega)]
  have hextract := extract_toOctets p q li.toNat
  push_cast at hextract
  have hpos : ¬ li.toNat = 0 := by omega
  rw [commitLength, if_neg hstart, hlength, if_neg hpos, if_neg hstolen, hextract, Nat.mul_comm, Int.mul_comm]

theorem commitLength_stolen (h : li.toNat = 62) : commitLength p ch li q t =
    (⟨.resource, p, some 496⟩, (setStolen t true).emit ch.toLogical ((p.drop q).take (496 - q))) := by
  obtain rfl : li = 0b111110 := BitVec.eq_of_toNat_eq h
  have hextract : extract p q (496 - q) = (p.drop q).take (496 - q) := extract_toOctets p q 62
  rw [← hextract]
  rfl

end

/-- The four treatments of a MAC-RESOURCE whose address stands committed, by its length indication (45 R286). -/
theorem answerUnit_commitLength (p : Bits) (ch : SigChannel) (li : BitVec 6) (q : Nat) {s t : State} (htime : t.time = s.time)
    (hmac : t.mac = s.mac) {outcome : Answer} (h : outcome = answerUnit s (.ok (commitLength p ch li q t))) :
    (li.toNat = 63 → outcome =
      .next ((fragAppend (p.drop q) t.addr (fragStart t.addr s.time t)).returns (.unit ⟨.fragStart, p, none⟩))) ∧
    (li.toNat = 0 ∨ li.toNat = 59 ∨ li.toNat = 60 ∨ li.toNat = 61 → outcome =
      .next ((t.log (.reservedLength li)).returns (.unit ⟨.reservedLength, p, none⟩))) ∧
    (li.toNat = 62 → outcome =
      .next (((t.setMac { s.mac with secondSlotStolen := true }).emit ch.toLogical ((p.drop q).take (496 - q))).returns
        (.unit ⟨.resource, p, some 496⟩))) ∧
    (1 ≤ li.toNat → li.toNat ≤ 58 → outcome =
      .next ((t.emit ch.toLogical ((p.drop q).take (8 * li.toNat - q))).returns (.unit ⟨.resource, p, some (8 * li.toNat)⟩))) := by
  refine ⟨fun hli => ?fragStart, fun hli => ?reserved, fun hli => ?stolen, fun hli hli' => ?resource⟩
  case fragStart => rw [h, commitLength_fragStart p ch q t hli, answerUnit_of_ok rfl, htime]
  case reserved => rw [h, commitLength_reserved p ch q t hli, answerUnit_of_ok rfl]
  case stolen => rw [h, commitLength_stolen p ch q t hli, answerUnit_of_ok rfl, setStolen, hmac]
  case resource => rw [h, commitLength_resource p ch q t hli hli', answerUnit_of_ok rfl]

/-- Settles O48: each address type by its layout, then the length indication. -/
theorem macResourceCommits : Obligations.MacResourceCommits := by
  intro fill grant access enc li um ssi ussi smi el pc sg k q post g ch s ty hty power hpower slots hslots head p flag t
    hfilled hq i hi
  have hflag : parseChanAllocFlag s.time.fn p head.length = .ok q := parseChanAllocFlag_eq rfl hq
  have hstart : p = resourceStart fill grant enc access li ty.1 ++ (ty.2.1 ++ power ++ slots ++ post) := by
    simp only [p, head, resourceStart, List.append_assoc]
  have hcommit {a : MacAddress} (hlayout : AddressLayout ty.1 ty.2.1 a) (hA : { a with encryptionMode := enc } = ty.2.2)
      (hum : ty.1 = 6 → a.usageMarker = um) : exec i s = answerUnit s (.ok (commitLength p ch li q t)) := by
    have hparse := parseAddressed_eq (a := a) (post := post) (p := p) rfl rfl hlayout hpower hslots hflag
    rw [exec_macResource_start hstart hfilled hi, dissectMacResource_addressed hstart hfilled hlayout.type_ne_zero hparse,
      commitAddress_eq enc s hum, hA]
  have hframe : t.addr = ty.2.2 ∧ t.time = s.time ∧ t.mac = s.mac := by
    simp only [t]
    split <;> exact ⟨rfl, rfl, rfl⟩
  obtain ⟨haddr, htime, hmac⟩ := hframe
  rw [← haddr]
  refine answerUnit_commitLength p ch li q htime hmac ?_
  simp only [List.mem_cons, List.not_mem_nil, or_false] at hty
  rcases hty with rfl | rfl | rfl | rfl | rfl | rfl | rfl
  · exact hcommit (.ssi ssi) rfl (by simp)
  · exact hcommit (.eventLabel el) rfl (by simp)
  · exact hcommit (.ussi ussi) rfl (by simp)
  · exact hcommit (.smi smi) rfl (by simp)
  · exact hcommit (.ssiEventLabel ssi el) rfl (by simp)
  · exact hcommit (.ssiUsageMarker ssi um) rfl (fun _ => rfl)
  · exact hcommit (.smiEventLabel smi el) rfl (by simp)

/-! ### Units without a TM-SDU -/

/-- A row of type 10, by its subtype. -/
theorem exec_type10_row {row : Instr} {sub : BitVec 2} (rest : Bits) (ch : SigChannel) (s : State)
    (hrow : exec row s = dissectRow (0b10#2 ++ sub) rest ch s) :
    exec row s = answerUnit s (if sub.toNat = 0b00 then dissectSysinfo (bvToBits (0b10#2 ++ sub) ++ rest) ch s
      else if sub.toNat = 0b01 then .ok (dissectAccessDefine (bvToBits (0b10#2 ++ sub) ++ rest) s)
      else .ok (ignoreReserved (bvToBits (0b10#2 ++ sub) ++ rest) (.subtype 2 sub) s)) := by
  have hpdu : StandsAt (bvToBits (0b10#2 ++ sub) ++ rest) 0 ([true, false] ++ bvToBits sub) := by
    rw [bvToBits_append]
    exact standsAt_start ..
  rw [hrow, dissectRow, pduOf, dissectOne_type10 ch s hpdu]

theorem exec_accessDefine (rest : Bits) (ch : SigChannel) (s : State) :
    exec (.accessDefine rest ch) s = .next (s.returns (.unit ⟨.accessDefine, bvToBits 0b1001#4 ++ rest, none⟩)) :=
  exec_type10_row (row := .accessDefine rest ch) (sub := 0b01#2) rest ch s rfl

/-- Subtypes 10 and 11 of type 10 are reserved (30 R101). -/
theorem exec_reserved10x (lo : BitVec 1) (rest : Bits) (ch : SigChannel) (s : State) :
    exec (.reserved10x lo rest ch) s = .next ((s.log (.reservedPdu (.subtype 2 (1#1 ++ lo)))).returns
      (.unit ⟨.ignored, bvToBits (0b101#3 ++ lo) ++ rest, none⟩)) := by
  have hcode : ∀ lo : BitVec 1, 0b101#3 ++ lo = 0b10#2 ++ (1#1 ++ lo) := by decide
  have hsub : ∀ lo : BitVec 1, ¬ (1#1 ++ lo).toNat = 0b00 ∧ ¬ (1#1 ++ lo).toNat = 0b01 := by decide
  have hrow : exec (.reserved10x lo rest ch) s = dissectRow (0b10#2 ++ (1#1 ++ lo)) rest ch s :=
    congrArg (fun code => dissectRow code rest ch s) (hcode lo)
  rw [exec_type10_row rest ch s hrow, if_neg (hsub lo).1, if_neg (hsub lo).2, ← hcode lo]
  rfl

/-- Type 11 is reserved outside SCH_F (30 R101). -/
theorem exec_reserved11 (lo : BitVec 2) (rest : Bits) {ch : SigChannel} (s : State) (hch : ch ≠ .schF) :
    exec (.reserved11 lo rest ch) s = .next ((s.log (.reservedPdu (.channel 3 ch))).returns
      (.unit ⟨.ignored, bvToBits (0b11#2 ++ lo) ++ rest, none⟩)) := by
  have hpdu : StandsAt (pduOf (0b11#2 ++ lo) rest) 0 [true, true] := by
    rw [pduOf, bvToBits_append, List.append_assoc]
    exact standsAt_start ..
  have hroute := (dissectOne_type11 ch s hpdu).trans (if_neg hch)
  exact congrArg (answerUnit s) hroute

/-- Settles O55: each PDU by its type, and the NULL PDU by its address type. -/
theorem unitsWithoutSdu : Obligations.UnitsWithoutSdu := by
  refine ⟨?types, ?nullPdu⟩
  case types =>
    intro p rest ch why lo1 lo2 s
    exact ⟨rfl, exec_accessDefine rest ch s, rfl, exec_reserved10x lo1 rest ch s, exec_reserved11 lo2 rest s, rfl⟩
  case nullPdu =>
    intro fill grant access enc li k rest g ch s p t hfilled
    have hboth : ∀ i ∈ [Instr.dissectMacResource g ch, .macResource (fill ++ grant) (g.drop 4) ch], exec i s = .next t :=
      fun i hi => by
        rw [exec_macResource_start (p := p) rfl hfilled hi, answerUnit_of_ok (dissectMacResource_null (p := p) rfl hfilled)]
    exact ⟨hboth _ (by simp), hboth _ (by simp), rfl⟩

/-! ### An abandoned unit -/

/-- A unit that answers a raised read was abandoned: the record is all that it leaves (45 R297). -/
theorem answerUnit_raised {s t : State} {e : OutOfRange} {x : Except OutOfRange (UnitResult × State)}
    (h : answerUnit s x = .next t) (ht : t.result = .raised e) :
    t = (s.log (.outOfRange e.pos e.n e.size)).returns (.raised e) := by
  rcases answerUnit_next.mp h with ⟨r, u, -, rfl⟩ | ⟨e', -, rfl⟩
  · cases ht
  · cases ht
    rfl

theorem answerPlain_raised {s t : State} {e : OutOfRange} {x : Except OutOfRange State}
    (h : answerPlain s x = .next t) (ht : t.result = .raised e) :
    t = (s.log (.outOfRange e.pos e.n e.size)).returns (.raised e) := by
  rcases answerPlain_next.mp h with ⟨u, -, rfl⟩ | ⟨e', -, rfl⟩
  · cases ht
  · cases ht
    rfl

/-- Settles O56: the units with a result record, and the two without. -/
theorem abandonedUnitWritesNothing : Obligations.AbandonedUnitWritesNothing := by
  intro i e s t hi h ht
  cases i
  case dissectAach | dissectBsch => exact answerPlain_raised h ht
  case dissectSysinfo | dissectMacResource | dissectMacFrag | dissectMacEnd | dissectMacDBlck | macResource | macFrag | macEnd
      | macDBlck | sysinfo => exact answerUnit_raised h ht
  all_goals exact hi.elim

/-! ### The dissociation loop, one unit at a time -/

section
variable {ch : SigChannel} {budget : Nat} {p : Bits} {s u : State} {r : UnitResult}

theorem dissociate_abandoned {e : OutOfRange} (h : dissectOne p ch s = .error e) :
    dissociate ch budget p s = abandonUnit e s := by
  rw [dissociate, h]

theorem dissociate_end (h : dissectOne p ch s = .ok (r, u)) (hr : restartOffset r = none) :
    dissociate ch budget p s = u := by
  rw [dissociate, h]
  simp only [hr]

theorem dissociate_restart {n : Nat} (h : dissectOne p ch s = .ok (r, u)) (hr : restartOffset r = some n) :
    dissociate ch (budget + 1) p s = dissociate ch budget (r.pdu.drop n) (countRestart u) := by
  rw [dissociate, h]
  simp only [hr, fromOffset_none]

theorem dissociate_overflow {n : Nat} (h : dissectOne p ch s = .ok (r, u)) (hr : restartOffset r = some n) :
    dissociate ch 0 p s = u.log (.dissocOverflow ch) := by
  rw [dissociate, h]
  simp only [hr]

end

/-- A restart follows a MAC-RESOURCE of known length that leaves 40 bits, at its end (45 R294). -/
theorem restartOffset_eq_some_iff {r : UnitResult} {off : Nat} : restartOffset r = some off ↔
    r.kind = .resource ∧ ∃ n : Int, r.sizeInMac = some n ∧ n + 40 ≤ r.pdu.length ∧ n.toNat = off := by
  obtain ⟨kind, pdu, size⟩ := r
  cases kind
  case resource =>
    cases size with
    | none => simp [restartOffset]
    | some n =>
      have hrem : (pdu.length : Int) - n ≥ 40 ↔ n + 40 ≤ pdu.length := by omega
      simp [restartOffset, hrem]
  all_goals simp [restartOffset]

theorem restartOffset_of_enough {r : UnitResult} {n : Nat} (hkind : r.kind = .resource) (hsize : r.sizeInMac = some (n : Int))
    (hrem : n + 40 ≤ r.pdu.length) : restartOffset r = some n :=
  restartOffset_eq_some_iff.mpr ⟨hkind, n, hsize, by omega, Int.toNat_natCast n⟩

theorem restartOffset_of_few {r : UnitResult} {n : Nat} (hsize : r.sizeInMac = some (n : Int))
    (hrem : r.pdu.length < n + 40) : restartOffset r = none := by
  refine Option.eq_none_iff_forall_ne_some.mpr fun off h => ?_
  obtain ⟨-, m, hm, hle, -⟩ := restartOffset_eq_some_iff.mp h
  obtain rfl := Option.some.inj (hsize.symm.trans hm)
  omega

theorem restartOffset_of_kind {r : UnitResult} (hkind : r.kind ≠ .resource) : restartOffset r = none := by
  refine Option.eq_none_iff_forall_ne_some.mpr fun off h => ?_
  obtain ⟨hresource, -⟩ := restartOffset_eq_some_iff.mp h
  exact hkind hresource

/-- The loop as an operation runs with the restarts that this burst has left (45 R294). -/
theorem exec_dissociationLoop {blk : Bits} {ch : SigChannel} {budget : Nat} {s : State}
    (hbudget : s.burst.dissocCount + budget = 32) :
    exec (.dissociationLoop blk ch) s = .next ((dissociate ch budget blk s).returns .none) := by
  have hleft : dissocMax - s.burst.dissocCount = budget := by rw [dissocMax]; omega
  exact answer_next.mpr (by rw [dissociationLoop, hleft])

/-- Settles O57: the five ends of one round of the loop. -/
theorem dissociationGoesUnitByUnit : Obligations.DissociationGoesUnitByUnit := by
  intro blk ch s hcount
  obtain ⟨budget, hbudget⟩ : ∃ budget, s.burst.dissocCount + budget = 32 := ⟨_, Nat.add_sub_cancel' hcount⟩
  rw [exec_dissociationLoop hbudget]
  refine ⟨fun e h => ?abandoned, fun r u h hkind => ?otherUnit, fun r u n h hkind hsize hrem => ?fewBits,
    fun r u n h hkind hsize hrem hlt => ?restart, fun r u n h hkind hsize hrem hcap => ?overflow⟩
  case abandoned => rw [dissociate_abandoned h, abandonUnit]
  case otherUnit => rw [dissociate_end h (restartOffset_of_kind hkind)]
  case fewBits => rw [dissociate_end h (restartOffset_of_few hsize hrem)]
  case restart =>
    obtain ⟨budget, rfl⟩ : ∃ b, budget = b + 1 := ⟨budget - 1, by omega⟩
    have hcounted : countRestart u = u.setBurst { u.burst with dissocCount := s.burst.dissocCount + 1 } := by
      rw [countRestart, burst_dissectOne h]
    refine ⟨_, exec_dissociationLoop (budget := budget) ?_, ?_⟩
    · simp only [State.setBurst_burst]
      omega
    · rw [dissociate_restart h (restartOffset_of_enough hkind hsize hrem), hcounted]
  case overflow =>
    obtain rfl : budget = 0 := by omega
    rw [dissociate_overflow h (restartOffset_of_enough hkind hsize hrem)]

/-! ### What a unit appends, and what it leaves of its PDU -/

/-- Records were appended, none of them an overflow of the loop. -/
def NoOverflow (s t : State) : Prop :=
  ∃ new, t.output = s.output ++ new ∧ ∀ c, Output.log (.dissocOverflow c) ∉ new

theorem NoOverflow.of_output {s t : State} (h : t.output = s.output) : NoOverflow s t := ⟨[], by simp [h], by simp⟩

theorem NoOverflow.refl (s : State) : NoOverflow s s := .of_output rfl

theorem NoOverflow.trans {s t u : State} (h : NoOverflow s t) (h' : NoOverflow t u) : NoOverflow s u := by
  obtain ⟨a, ha, hno⟩ := h
  obtain ⟨b, hb, hno'⟩ := h'
  exact ⟨a ++ b, by rw [hb, ha, List.append_assoc], fun c => by simp [hno c, hno' c]⟩

theorem noOverflow_log (s : State) {r : LogRecord} (h : ∀ c, r ≠ .dissocOverflow c) : NoOverflow s (s.log r) :=
  ⟨[.log r], rfl, fun c => by simpa using (h c).symm⟩

theorem noOverflow_emit (s : State) (ch : LogicalChannel) (v : Bits) : NoOverflow s (s.emit ch v) :=
  ⟨_, s.emit_output ch v, fun c => by split <;> simp⟩

theorem noOverflow_fragAppend (v : Bits) (a : MacAddress) (s : State) : NoOverflow s (fragAppend v a s) := by
  have hstop : NoOverflow s (fragStop s) := .of_output rfl
  unfold fragAppend
  split
  · exact noOverflow_log s nofun
  · split
    · exact hstop.trans (noOverflow_log _ nofun)
    · split
      · exact hstop.trans (noOverflow_log _ nofun)
      · exact .of_output rfl

theorem noOverflow_fragStart (a : MacAddress) (t : TetraTime) (s : State) : NoOverflow s (fragStart a t s) := by
  have hlog : NoOverflow s (s.log (.defragFail s.frag.ssi)) := noOverflow_log s nofun
  unfold fragStart
  split
  · exact .of_output rfl
  · exact hlog.trans (.of_output rfl)

theorem noOverflow_commitAddress (a : MacAddress) (enc : BitVec 2) (addrType : Nat) (s : State) :
    NoOverflow s (commitAddress a enc addrType s) := by
  simp only [commitAddress]
  split <;> exact .of_output rfl

/-- A MAC-RESOURCE whose length is known has at least the one octet that its length indication says (45 R285, R286). -/
theorem commitLength_cases (p : Bits) (ch : SigChannel) (li : BitVec 6) (pos : Nat) (s : State) :
    NoOverflow s (commitLength p ch li pos s).2 ∧ (commitLength p ch li pos s).1.pdu = p ∧
      ∀ n, (commitLength p ch li pos s).1.sizeInMac = some n → 8 ≤ n := by
  unfold commitLength
  split
  · exact ⟨(noOverflow_fragStart _ _ s).trans (noOverflow_fragAppend ..), rfl, nofun⟩
  · split
    next => exact ⟨noOverflow_log s nofun, rfl, nofun⟩
    next hzero =>
      refine ⟨?_, rfl, fun n hn => ?_⟩
      · have hstolen : NoOverflow s (setStolen s true) := .of_output rfl
        simp only
        split
        · exact hstolen.trans (noOverflow_emit ..)
        · exact noOverflow_emit ..
      · obtain rfl := Option.some.inj hn
        omega

/-- A unit appends no overflow; where it leads to a restart, that is at least 8 bits on, with 40 bits left of the block. -/
structure UnitProgress (p : Bits) (s : State) (r : UnitResult) (t : State) : Prop where
  noOverflow : NoOverflow s t
  restart : ∀ off, restartOffset r = some off → 8 ≤ off ∧ off + 40 ≤ r.pdu.length ∧ r.pdu.length ≤ p.length

theorem UnitProgress.of_kind {p : Bits} {s t : State} {r : UnitResult} (h : NoOverflow s t) (hkind : r.kind ≠ .resource) :
    UnitProgress p s r t := ⟨h, fun off hoff => by rw [restartOffset_of_kind hkind] at hoff; cases hoff⟩

section
variable {p : Bits} {ch : SigChannel} {s t : State} {r : UnitResult}

theorem parseMacResource_pdu_length {keep : Bool} {fn : Nat} {enc : BitVec 2} {li : BitVec 6} {addrType pos : Nat}
    {a : MacAddress} {p' : Bits} (h : parseMacResource keep fn p = .ok (.addressed p' enc li addrType a pos)) :
    p'.length ≤ p.length := by
  obtain ⟨fill, -, h⟩ := ok_of_bind h
  obtain ⟨_, -, h⟩ := ok_of_bind h
  obtain ⟨_, -, h⟩ := ok_of_bind h
  obtain ⟨_, -, h⟩ := ok_of_bind h
  obtain ⟨_, -, h⟩ := ok_of_bind h
  obtain ⟨_, -, h⟩ := ok_of_bind h
  split at h
  · cases h
  · obtain ⟨_, -, h⟩ := ok_of_bind h
    obtain ⟨_, -, h⟩ := ok_of_bind h
    obtain ⟨_, -, h⟩ := ok_of_bind h
    obtain ⟨_, -, h⟩ := ok_of_bind h
    cases h
    exact strippedIf_length_le keep fill p

theorem progress_dissectMacResource (h : dissectMacResource p ch s = .ok (r, t)) : UnitProgress p s r t := by
  obtain ⟨header, hheader, h⟩ := ok_of_bind h
  cases header with
  | null p' => cases h; exact .of_kind (.refl s) nofun
  | addressed p' enc li addrType a pos =>
    obtain ⟨hno, hpdu, hsize⟩ := commitLength_cases p' ch li pos (commitAddress a enc addrType s)
    have heq := Except.ok.inj h
    rw [heq] at hno hpdu hsize
    refine ⟨(noOverflow_commitAddress a enc addrType s).trans hno, fun off hoff => ?_⟩
    obtain ⟨-, n, hn, hrem, rfl⟩ := restartOffset_eq_some_iff.mp hoff
    have hoctet : 8 ≤ n := hsize n hn
    have hle : r.pdu.length ≤ p.length := hpdu ▸ parseMacResource_pdu_length hheader
    exact ⟨by omega, by omega, hle⟩

theorem progress_dissectMacFrag (h : dissectMacFrag p s = .ok (r, t)) : UnitProgress p s r t := by
  obtain ⟨fill, -, h⟩ := ok_of_bind h
  cases h
  exact .of_kind (noOverflow_fragAppend ..) nofun

theorem noOverflow_commitMacEnd (p : Bits) (ch : SigChannel) (pos : Nat) (s : State) :
    NoOverflow s (commitMacEnd p ch pos s) :=
  (noOverflow_fragAppend ..).trans ((noOverflow_emit ..).trans (.of_output rfl))

theorem progress_dissectMacEnd (h : dissectMacEnd p ch s = .ok (r, t)) : UnitProgress p s r t := by
  obtain ⟨fill, -, h⟩ := ok_of_bind h
  obtain ⟨_, -, h⟩ := ok_of_bind h
  obtain ⟨li, -, h⟩ := ok_of_bind h
  split at h
  · cases h
    exact .of_kind (noOverflow_log s nofun) nofun
  · obtain ⟨_, -, h⟩ := ok_of_bind h
    obtain ⟨pos, -, h⟩ := ok_of_bind h
    cases h
    exact .of_kind (noOverflow_commitMacEnd ..) nofun

theorem progress_dissectMacDBlck (h : dissectMacDBlck p s = .ok (r, t)) : UnitProgress p s r t := by
  obtain ⟨fill, -, h⟩ := ok_of_bind h
  obtain ⟨enc, -, h⟩ := ok_of_bind h
  obtain ⟨el, -, h⟩ := ok_of_bind h
  obtain ⟨_, -, h⟩ := ok_of_bind h
  obtain ⟨pos, -, h⟩ := ok_of_bind h
  cases h
  exact .of_kind (.trans (.of_output rfl) (noOverflow_emit ..)) nofun

theorem progress_dissectSysinfo (h : dissectSysinfo p ch s = .ok (r, t)) : UnitProgress p s r t := by
  unfold dissectSysinfo at h
  split at h
  · cases h
    exact .of_kind (noOverflow_log s nofun) nofun
  · obtain ⟨f, -, h⟩ := ok_of_bind h
    cases h
    exact .of_kind (.trans (.of_output rfl) (noOverflow_emit ..)) nofun

/-- Of all units, by their types. -/
theorem progress_dissectOne (h : dissectOne p ch s = .ok (r, t)) : UnitProgress p s r t := by
  obtain ⟨type, -, h⟩ := ok_of_bind h
  split at h
  · exact progress_dissectMacResource h
  · split at h
    · obtain ⟨sub, -, h⟩ := ok_of_bind h
      split at h
      · exact progress_dissectMacFrag h
      · exact progress_dissectMacEnd h
    · split at h
      · obtain ⟨sub, -, h⟩ := ok_of_bind h
        split at h
        · exact progress_dissectSysinfo h
        · split at h
          · cases h; exact .of_kind (.refl s) nofun
          · cases h; exact .of_kind (noOverflow_log s nofun) nofun
      · split at h
        · exact progress_dissectMacDBlck h
        · cases h; exact .of_kind (noOverflow_log s nofun) nofun

end

/-! ### The loop on one block -/

/-- Each restart takes 8 bits and leaves 40, so a block of fewer than `48 + 8m` bits restarts at most `m` times; a budget of that many is never exceeded (45 R294). -/
theorem dissociate_bounded (ch : SigChannel) (m : Nat) : ∀ {budget : Nat} (p : Bits) (s : State), m ≤ budget →
    p.length < 48 + 8 * m → NoOverflow s (dissociate ch budget p s) ∧
      (dissociate ch budget p s).burst.dissocCount ≤ s.burst.dissocCount + m := by
  induction m with
  | zero =>
    intro budget p s _ hl
    cases h : dissectOne p ch s with
    | error e =>
      rw [dissociate_abandoned h]
      exact ⟨noOverflow_log s nofun, le_rfl⟩
    | ok x =>
      obtain ⟨r, u⟩ := x
      have hunit := progress_dissectOne h
      have hnone : restartOffset r = none := Option.eq_none_iff_forall_ne_some.mpr fun off hoff => by
        have := hunit.restart off hoff
        omega
      rw [dissociate_end h hnone]
      exact ⟨hunit.noOverflow, by rw [burst_dissectOne h]; exact le_rfl⟩
  | succ m ih =>
    intro budget p s hm hl
    obtain ⟨budget, rfl⟩ : ∃ b, budget = b + 1 := ⟨budget - 1, by omega⟩
    cases h : dissectOne p ch s with
    | error e =>
      rw [dissociate_abandoned h]
      exact ⟨noOverflow_log s nofun, Nat.le_add_right ..⟩
    | ok x =>
      obtain ⟨r, u⟩ := x
      have hunit := progress_dissectOne h
      cases hoff : restartOffset r with
      | none =>
        rw [dissociate_end h hoff]
        exact ⟨hunit.noOverflow, by rw [burst_dissectOne h]; exact Nat.le_add_right ..⟩
      | some off =>
        obtain ⟨hmin, hrem, hpdu⟩ := hunit.restart off hoff
        have hnext : (r.pdu.drop off).length < 48 + 8 * m := by rw [List.length_drop]; omega
        obtain ⟨hno, hcount⟩ := ih (budget := budget) (r.pdu.drop off) (countRestart u) (by omega) hnext
        rw [dissociate_restart h hoff]
        refine ⟨hunit.noOverflow.trans (NoOverflow.trans (.of_output rfl) hno), hcount.trans ?_⟩
        rw [countRestart, State.setBurst_burst, burst_dissectOne h]
        exact (Nat.succ_add ..).le

/-- Settles O58: 268 bits are fewer than `48 + 8 · 28`, and 124 fewer than `48 + 8 · 10`. -/
theorem oneBlockNeverOverflows : Obligations.OneBlockNeverOverflows := by
  intro blk ch s hzero hl
  have hbudget : s.burst.dissocCount + 32 = 32 := by rw [hzero]
  obtain ⟨⟨new, hout, hno⟩, hcount⟩ := dissociate_bounded ch 28 (budget := 32) blk s (by decide) (by omega)
  rw [hzero] at hcount
  refine ⟨_, new, exec_dissociationLoop hbudget, hcount, fun hshort => ?half, hout, hno⟩
  case half =>
    obtain ⟨-, hcount'⟩ := dissociate_bounded ch 10 (budget := 32) blk s (by decide) (by omega)
    rwa [hzero] at hcount'

/-! ### `UMAC_DISPATCH` -/

/-- A field within the vector is read (40 R141). -/
theorem getValue_ok {v : Bits} {pos n : Nat} (h : pos + n ≤ v.length) : ∃ x, getValue v pos n = .ok x := by
  rcases getValue_cases v pos n with ⟨hlt, -⟩ | ⟨-, hok⟩
  · omega
  · exact ⟨_, hok⟩

theorem getValue_outOfRange {v : Bits} {pos n : Nat} (h : v.length < pos + n) :
    getValue v pos n = .error ⟨pos, n, v.length⟩ := if_pos h

/-- An AACH whose two fields are there is dissected (45 R282). -/
theorem dissectAach_ok {a : Bits} (s : State) (h : 8 ≤ a.length) : ∃ t, dissectAach a s = .ok t := by
  obtain ⟨header, hheader⟩ := getValue_ok (v := a) (pos := 0) (n := 2) (by omega)
  obtain ⟨field1, hfield1⟩ := getValue_ok (v := a) (pos := 2) (n := 6) (by omega)
  exact ⟨_, by rw [dissectAach, hheader, ok_bind, hfield1, ok_bind, pure_eq_ok]⟩

/-- The last field that a BSCH's reads take ends at bit 55 (45 R283). -/
theorem parseBsch_ok {b : Bits} (h : 60 ≤ b.length) : ∃ f, parseBsch b = .ok f := by
  have hread (pos n : Nat) (hend : pos + n ≤ 60) : ∃ x, getValue b pos n = .ok x := getValue_ok (hend.trans h)
  obtain ⟨sys, hsys⟩ := hread 0 4 (by decide)
  obtain ⟨cc, hcc⟩ := hread 4 6 (by decide)
  obtain ⟨tn, htn⟩ := hread 10 2 (by decide)
  obtain ⟨fn, hfn⟩ := hread 12 5 (by decide)
  obtain ⟨mn, hmn⟩ := hread 17 6 (by decide)
  obtain ⟨mcc, hmcc⟩ := hread 31 10 (by decide)
  obtain ⟨mnc, hmnc⟩ := hread 41 14 (by decide)
  exact ⟨_, by rw [parseBsch, consume, hsys, ok_bind, pure_eq_ok, ok_bind, hcc, ok_bind, htn, ok_bind, hfn, ok_bind, hmn,
    ok_bind, hmcc, ok_bind, hmnc, ok_bind, pure_eq_ok]⟩

/-- So a BSCH is never abandoned: under 60 bits it is dropped (45 R283). -/
theorem dissectBsch_ok (b : Bits) (s : State) : ∃ t, dissectBsch b s = .ok t := by
  by_cases hl : b.length < bschMin
  · exact ⟨_, if_pos hl⟩
  · obtain ⟨f, hf⟩ := parseBsch_ok (Nat.not_lt.mp hl)
    exact ⟨_, by rw [dissectBsch, if_neg hl, hf, ok_bind, pure_eq_ok]⟩

/-- A dissector that gives a state leaves that state, alone or dispatched. -/
theorem caught_of_ok {s u : State} {x : Except OutOfRange State} (h : x = .ok u) : caught s x = u := by
  rw [h, caught]

theorem exec_umacDispatch (blk : Bits) (ch : LogicalChannel) (s : State) :
    exec (.umacDispatch blk ch) s = .next ((umacDispatch blk ch s).returns .none) := rfl

/-- Settles O43: each channel by its branch, the short AACH by the first read that fails. -/
theorem umacDispatchRoutes : Obligations.UmacDispatchRoutes := by
  intro blk s
  refine ⟨fun hl => ?aach, fun hl => ?noHeader, fun hl hl' => ?noField, ?bsch, ⟨_, rfl, rfl⟩, fun ch => ?loop, fun ch hch => ?ignored⟩
  case aach =>
    obtain ⟨t, ht⟩ := dissectAach_ok s hl
    exact ⟨t.returns .none, answerPlain_of_ok ht, by rw [exec_umacDispatch, umacDispatch, caught_of_ok ht]⟩
  case noHeader =>
    rw [exec_umacDispatch, umacDispatch, dissectAach, getValue_outOfRange hl]
    rfl
  case noField =>
    obtain ⟨header, hheader⟩ := getValue_ok (v := blk) (pos := 0) (n := 2) hl
    rw [exec_umacDispatch, umacDispatch, dissectAach, hheader, ok_bind, getValue_outOfRange hl']
    rfl
  case bsch =>
    obtain ⟨t, ht⟩ := dissectBsch_ok blk s
    exact ⟨t.returns .none, by rw [exec_dissectBsch, answerPlain_of_ok ht],
      by rw [exec_umacDispatch, umacDispatch, caught_of_ok ht]⟩
  case loop => cases ch <;> exact ⟨_, rfl, rfl⟩
  case ignored =>
    simp only [List.mem_cons, List.not_mem_nil, or_false] at hch
    rcases hch with rfl | rfl | rfl <;> rfl

end Sys2Proof.Machine
end

section
/-! The defragmenter (family 46_defragmenter): each operation by its cases, and a reassembly as the concatenation of what was appended. -/

namespace Sys2Proof.Machine

/-! ### `FRAG_START` (46 R361) -/

theorem exec_fragStart (a : MacAddress) (t : TetraTime) (s : State) :
    exec (.fragStart a t) s = .next ((fragStart a t s).returns .none) := rfl

theorem fragStart_of_empty (a : MacAddress) (t : TetraTime) {s : State} (h : s.frag.buffer = []) :
    fragStart a t s = s.setFrag ⟨false, a, a.ssi, t, 0, [], a.encryptionMode, a.usageMarker⟩ := by
  rw [fragStart, if_pos (List.isEmpty_iff.mpr h)]

theorem fragStart_of_nonempty (a : MacAddress) (t : TetraTime) {s : State} (h : s.frag.buffer ≠ []) :
    fragStart a t s =
      (s.log (.defragFail s.frag.ssi)).setFrag ⟨false, a, a.ssi, t, 0, [], a.encryptionMode, a.usageMarker⟩ := by
  rw [fragStart, if_neg (mt List.isEmpty_iff.mp h)]

/-! ### `FRAG_APPEND` (46 R362) -/

section
variable {v : Bits} {a : MacAddress} {s : State}

theorem exec_fragAppend (v : Bits) (a : MacAddress) (s : State) :
    exec (.fragAppend v a) s = .next ((fragAppend v a s).returns .none) := rfl

theorem fragAppend_of_stopped (h : s.frag.stopped = true) : fragAppend v a s = s.log (.defragStopped a.ssi) := if_pos h

theorem fragAppend_of_ssi_ne (h : s.frag.stopped = false) (hssi : a.ssi ≠ s.frag.ssi) :
    fragAppend v a s = (fragStop s).log (.defragSsiMismatch s.frag.ssi a.ssi) := by
  rw [fragAppend, if_neg (ne_true_of_eq_false h), if_pos hssi]

theorem fragAppend_of_overflow (h : s.frag.stopped = false) (hssi : a.ssi = s.frag.ssi)
    (hcap : s.params.fragCap < s.frag.buffer.length + v.length) :
    fragAppend v a s = (fragStop s).log (.defragOverflow (s.frag.buffer.length + v.length)) := by
  rw [fragAppend, if_neg (ne_true_of_eq_false h), if_neg (not_not.mpr hssi), if_pos hcap]

theorem fragAppend_of_fits (h : s.frag.stopped = false) (hssi : a.ssi = s.frag.ssi)
    (hcap : s.frag.buffer.length + v.length ≤ s.params.fragCap) :
    fragAppend v a s = s.setFrag { s.frag with
      buffer := s.frag.buffer ++ v
      fragmentCount := min (s.frag.fragmentCount + 1) 65535 } := by
  rw [fragAppend, if_neg (ne_true_of_eq_false h), if_neg (not_not.mpr hssi), if_neg (not_lt.mpr hcap), append]

end

/-- The count of fragments saturates (46 R360). -/
theorem min_succ_eq_ite (n m : Nat) : min (n + 1) m = if n < m then n + 1 else m := by
  split <;> omega

/-! ### `FRAG_GET_SDU` and `FRAG_STOP` (46 R363, R364) -/

theorem exec_fragGetSdu (a : MacAddress) (s : State) :
    exec (.fragGetSdu a) s = .next (s.returns (.sdu (fragSdu s) a.encryptionMode a.usageMarker)) := rfl

theorem fragSdu_of_stopped {s : State} (h : s.frag.stopped = true) : fragSdu s = [] := if_pos h

theorem fragSdu_of_running {s : State} (h : s.frag.stopped = false) : fragSdu s = s.frag.buffer :=
  if_neg (ne_true_of_eq_false h)

theorem exec_fragStop (s : State) : exec .fragStop s = .next ((fragStop s).returns .none) := rfl

/-- Settles O59: each operation by its own cases. -/
theorem defragmenterOperations : Obligations.DefragmenterOperations := by
  refine ⟨fun a t s => ⟨fun hempty => ?startEmpty, fun hheld => ?startHeld⟩,
    fun v a s => ⟨fun hstop => ?appendStopped, fun hrun hssi => ?appendMismatch, fun hrun hssi hcap => ?appendOverflow,
      fun hrun hssi hcap => ?appendFits⟩,
    fun a s => ⟨fun hstop => ?sduStopped, fun hrun => ?sduRunning, exec_fragStop s⟩⟩
  case startEmpty => rw [exec_fragStart, fragStart_of_empty a t hempty]
  case startHeld => rw [exec_fragStart, fragStart_of_nonempty a t hheld]
  case appendStopped => rw [exec_fragAppend, fragAppend_of_stopped hstop]
  case appendMismatch => rw [exec_fragAppend, fragAppend_of_ssi_ne hrun hssi, fragStop]
  case appendOverflow => rw [exec_fragAppend, fragAppend_of_overflow hrun hssi hcap, fragStop]
  case appendFits => rw [exec_fragAppend, fragAppend_of_fits hrun hssi hcap, min_succ_eq_ite]
  case sduStopped => rw [exec_fragGetSdu, fragSdu_of_stopped hstop]
  case sduRunning => rw [exec_fragGetSdu, fragSdu_of_running hrun]

/-! ### A whole reassembly -/

/-- A reassembly under `ssi` is running and has gathered the bits `held`; the buffer takes `cap` bits. -/
structure Reassembling (ssi : BitVec 24) (cap : Nat) (held : Bits) (s : State) : Prop where
  running : s.frag.stopped = false
  ssi_eq : s.frag.ssi = ssi
  buffer : s.frag.buffer = held
  cap_eq : s.params.fragCap = cap

/-- A start gathers anew, whatever the slot held (46 R361). -/
theorem reassembling_fragStart (a : MacAddress) (t : TetraTime) (s : State) :
    Reassembling a.ssi s.params.fragCap [] (fragStart a t s) := by
  by_cases hempty : s.frag.buffer = []
  · rw [fragStart_of_empty a t hempty]
    exact ⟨rfl, rfl, rfl, rfl⟩
  · rw [fragStart_of_nonempty a t hempty]
    exact ⟨rfl, rfl, rfl, rfl⟩

/-- A fragment of the same SSI that fits is put behind what was gathered (46 R362). -/
theorem reassembling_fragAppend {a : MacAddress} {cap : Nat} {held f : Bits} {s : State}
    (h : Reassembling a.ssi cap held s) (hfits : held.length + f.length ≤ cap) :
    Reassembling a.ssi cap (held ++ f) (fragAppend f a s) := by
  obtain ⟨hrun, hssi, rfl, rfl⟩ := h
  rw [fragAppend_of_fits hrun hssi.symm hfits]
  exact ⟨hrun, hssi, rfl, rfl⟩

/-- So are any fragments that fit together, one after another. -/
theorem reassembling_foldl_fragAppend {a : MacAddress} {cap : Nat} (fs : List Bits) : ∀ {held : Bits} {s : State},
    Reassembling a.ssi cap held s → held.length + fs.flatten.length ≤ cap →
      Reassembling a.ssi cap (held ++ fs.flatten) (fs.foldl (fun u f => fragAppend f a u) s) := by
  induction fs with
  | nil =>
    intro held s h _
    rwa [List.flatten_nil, List.append_nil]
  | cons f fs ih =>
    intro held s h hfits
    rw [List.flatten_cons, List.length_append] at hfits
    have happended := reassembling_fragAppend (f := f) h (by omega)
    rw [List.flatten_cons, ← List.append_assoc]
    exact ih happended (by rw [List.length_append]; omega)

/-- Settles O60: the start gathers nothing, each append gathers its fragment, and the SDU is what was gathered. -/
theorem reassemblyIsConcatenation : Obligations.ReassemblyIsConcatenation := by
  intro a b t fs s hcap
  have hend := reassembling_foldl_fragAppend fs (reassembling_fragStart a t s) (by rwa [List.length_nil, Nat.zero_add])
  rw [exec_fragGetSdu, fragSdu_of_running hend.running, hend.buffer, List.nil_append]

end Sys2Proof.Machine
end

section
/-! The interfaces (family 47_interfaces): what a step does with the word at the port and with each of the hardware's own inputs; the byte unpacked and the record emitted; what a halted block leaves, and the configuration. -/

namespace Sys2Proof.Machine

/-! ### Words at the port (47 R384) -/

theorem runsHalted_iff {i : Instr} : runsHalted i = true ↔ i = .reset := beq_iff_eq

theorem runsHalted_eq_false_iff {i : Instr} : runsHalted i = false ↔ i ≠ .reset := beq_eq_false_iff_ne

section
variable {s : State} {word : Bits} {rest : List Bits}

theorem step_operation_of_runs {i : Instr} (hops : s.ops = word :: rest) (hi : decode word = .ok i)
    (hrun : s.halted = false ∨ i = .reset) : step s = exec i (s.setOps rest) := by
  have hguard : (s.halted && !runsHalted i) = false := by
    rcases hrun with hrun | hreset
    · rw [hrun, Bool.false_and]
    · rw [runsHalted_iff.mpr hreset, Bool.not_true, Bool.and_false]
  rw [step_operation hops hi, if_neg (Bool.eq_false_iff.mp hguard)]

theorem step_operation_of_halted {i : Instr} (hops : s.ops = word :: rest) (hi : decode word = .ok i)
    (hhalted : s.halted = true) (hreset : i ≠ .reset) : step s = .next (s.setOps rest) := by
  have hguard : (s.halted && !runsHalted i) = true := by
    rw [hhalted, runsHalted_eq_false_iff.mpr hreset, Bool.not_false, Bool.and_true]
  rw [step_operation hops hi, if_pos hguard]

theorem step_of_undecodable {e : DecodeError} (hops : s.ops = word :: rest) (he : decode word = .error e) :
    step s = .refused (.undecodable e) := by
  simp only [step, pending, hops, runWord, he]

end

/-- Settles O4: a word decodes, to an operation that runs or to one that is dropped, or is refused. -/
theorem stepRunsDecoded : Obligations.StepRunsDecoded := fun _ _ _ hops =>
  ⟨fun _ => step_operation_of_runs hops, fun _ => step_operation_of_halted hops, fun _ => step_of_undecodable hops⟩

/-! ### `INPUT_UNPACK` (47 R382) -/

theorem inputUnpack_single (x : Byte) : inputUnpack false x = [x.getLsbD 0] := rfl

theorem inputUnpack_packed (x : Byte) : inputUnpack true x =
    [x.getLsbD 0, x.getLsbD 1, x.getLsbD 2, x.getLsbD 3, x.getLsbD 4, x.getLsbD 5, x.getLsbD 6, x.getLsbD 7] := rfl

/-- The symbols of a packed byte are the binary digits of its value, the least significant first. -/
theorem inputUnpack_packed_getElem? (x : Byte) {i : Nat} (hi : i < 8) :
    (inputUnpack true x)[i]? = some (x.toNat / 2 ^ i % 2 == 1) := by
  have hbit : x.getLsbD i = (x.toNat / 2 ^ i % 2 == 1) := by
    rw [BitVec.getLsbD, Nat.testBit_eq_decide_div_mod_eq, beq_eq_decide]
  rw [inputUnpack, if_pos rfl, List.getElem?_map, List.getElem?_range hi, Option.map_some, hbit]

theorem exec_inputUnpack (x : Byte) (s : State) :
    exec (.inputUnpack x) s = .next (s.returns (.bits (inputUnpack s.packMode x))) := rfl

/-! ### The next symbol (47 R380, R382) -/

section
variable {e : Environment}

theorem nextSymbol_of_waiting (pack : Bool) {b : Bool} {more : Bits} (h : e.symbols = b :: more) :
    nextSymbol pack e = some (b, { e with symbols := more }) := by
  simp only [nextSymbol, h]

/-- A byte gives its first symbol, and the others wait. -/
theorem nextSymbol_of_byte {pack b : Bool} {more : Bits} {x : Byte} {bytes : List Byte} (hs : e.symbols = [])
    (hb : e.bytes = x :: bytes) (hx : inputUnpack pack x = b :: more) :
    nextSymbol pack e = some (b, { e with bytes := bytes, symbols := more }) := by
  simp only [nextSymbol, hs, hb, hx]

theorem nextSymbol_of_empty (pack : Bool) (hs : e.symbols = []) (hb : e.bytes = []) : nextSymbol pack e = none := by
  simp only [nextSymbol, hs, hb]

end

/-! ### The hardware's own inputs, by priority (60 R405; log entry 6) -/

section
variable {s : State}

theorem pendingInput_of_reset (hr : s.env.resetPending = true) : pendingInput s = .reset := if_pos hr

theorem pendingInput_of_halted (hr : s.env.resetPending = false) (hh : s.halted = true) : pendingInput s = .idle := by
  rw [pendingInput, if_neg (Bool.eq_false_iff.mp hr), if_pos hh]

theorem pendingInput_of_stop (hr : s.env.resetPending = false) (hh : s.halted = false) (hs : s.env.stopPending = true) :
    pendingInput s = .stop := by
  rw [pendingInput, if_neg (Bool.eq_false_iff.mp hr), if_neg (Bool.eq_false_iff.mp hh), if_pos hs]

theorem pendingInput_of_symbol {b : Bool} {env : Environment} (hr : s.env.resetPending = false) (hh : s.halted = false)
    (hs : s.env.stopPending = false) (hn : nextSymbol s.packMode s.env = some (b, env)) :
    pendingInput s = .symbol b env := by
  simp only [pendingInput, hr, hh, hs, hn, Bool.false_eq_true, if_false]

theorem pendingInput_of_noSymbol (hr : s.env.resetPending = false) (hh : s.halted = false)
    (hs : s.env.stopPending = false) (hn : nextSymbol s.packMode s.env = none) :
    pendingInput s = if s.env.ioErrorPending then .ioError else .idle := by
  simp only [pendingInput, hr, hh, hs, hn, Bool.false_eq_true, if_false]

/-- With an empty port and a block that runs, the next symbol is taken by a step of its own. -/
theorem step_of_symbol {b : Bool} {env : Environment} (hops : s.ops = []) (hr : s.env.resetPending = false)
    (hh : s.halted = false) (hs : s.env.stopPending = false) (hn : nextSymbol s.packMode s.env = some (b, env)) :
    step s = exec (.rxSymbol b) (s.setEnv env) := by
  rw [step_input hops, pendingInput_of_symbol hr hh hs hn]

theorem step_of_idle (hops : s.ops = []) (hi : pendingInput s = .idle) : step s = .next s := by
  rw [step_input hops, hi]

end

/-- Settles O5: each input by its place in the order, and a symbol by where it comes from. -/
theorem stepTakesInputs : Obligations.StepTakesInputs := by
  intro s hops
  refine ⟨fun hr => ?reset, fun hr hh => step_of_idle hops (pendingInput_of_halted hr hh), fun hr hh =>
    ⟨fun hs => ?stop, fun hs => ⟨fun b more hsym => ?waiting, fun x bytes hsym hb hp => ?single,
      fun x bytes hsym hb hp => ?packed, fun hsym hb hio => ?ioError, fun hsym hb hio => ?idle⟩⟩⟩
  case reset => rw [step_input hops, pendingInput_of_reset hr]
  case stop =>
    rw [step_input hops, pendingInput_of_stop hr hh hs]
    rfl
  case waiting => exact step_of_symbol hops hr hh hs (nextSymbol_of_waiting _ hsym)
  case single =>
    have hunpack : inputUnpack s.packMode x = [x.getLsbD 0] := by rw [hp, inputUnpack_single]
    rw [step_of_symbol hops hr hh hs (nextSymbol_of_byte hsym hb hunpack), ← hsym]
  case packed =>
    exact step_of_symbol hops hr hh hs (nextSymbol_of_byte hsym hb (by rw [hp, inputUnpack_packed]))
  case ioError =>
    rw [step_input hops, pendingInput_of_noSymbol hr hh hs (nextSymbol_of_empty _ hsym hb), if_pos hio]
    rfl
  case idle =>
    refine step_of_idle hops ?_
    rw [pendingInput_of_noSymbol hr hh hs (nextSymbol_of_empty _ hsym hb), if_neg (Bool.eq_false_iff.mp hio)]

/-! ### `EMIT` (47 R383) -/

theorem exec_emit (ch : LogicalChannel) (v : Bits) (s : State) :
    exec (.emit ch v) s = .next ((s.emit ch v).returns .none) := rfl

theorem State.emit_nil (s : State) (ch : LogicalChannel) : s.emit ch [] = s := rfl

/-- Settles O15: a byte by the mode that was sampled, an emission by whether its SDU is empty. -/
theorem portsUnpackAndEmit : Obligations.PortsUnpackAndEmit := by
  refine ⟨fun x s => ⟨fun hp => ?single, fun hp => ?packed⟩, fun ch v s => ⟨fun hv => ?record, fun hv => ?nothing⟩⟩
  case single => rw [exec_inputUnpack, hp, inputUnpack_single]
  case packed =>
    refine ⟨inputUnpack true x, ?_, rfl, fun i hi => inputUnpack_packed_getElem? x hi⟩
    rw [exec_inputUnpack, hp]
  case record => rw [exec_emit, State.emit_of_ne_nil s ch hv]
  case nothing => rw [exec_emit, hv, State.emit_nil]

/-! ### A halted block (47 R384, R385) -/

theorem exec_stop (s : State) : exec .stop s = .next ((s.setHalted true).returns .none) := rfl

theorem exec_ioError (s : State) : exec .ioError s = .next (((s.log .ioError).setHalted true).returns .none) := rfl

theorem State.setOps_of_eq {s : State} {ops : List Bits} (h : s.ops = ops) : s.setOps ops = s := by
  subst h
  rfl

/-- Settles O14: the word at a halted block's port is dropped, and without a word nothing is pending. -/
theorem stopHaltsUntilReset : Obligations.StopHaltsUntilReset := by
  refine ⟨fun s => ⟨exec_stop s, exec_ioError s⟩, fun s t hhalted hr hword h => ?_⟩
  cases hops : s.ops with
  | nil =>
    rw [step_of_idle hops (pendingInput_of_halted hr hhalted)] at h
    cases h
    exact (State.setOps_of_eq hops).symm
  | cons word rest =>
    cases hi : decode word with
    | error e =>
      rw [step_of_undecodable hops hi] at h
      cases h
    | ok i =>
      have hreset : i ≠ .reset := by
        rintro rfl
        exact hword word rest hops hi
      rw [step_operation_of_halted hops hi hhalted hreset] at h
      cases h
      rfl

/-! ### The configuration (47 R381, 70 R442) -/

/-- The parameters and the two sampled inputs are left as they were. -/
structure SameConfiguration (s t : State) : Prop where
  params : t.params = s.params
  keepFillBits : t.keepFillBits = s.keepFillBits
  packMode : t.packMode = s.packMode

theorem OutsideMac.sameConfiguration {s t : State} (h : OutsideMac s t) : SameConfiguration s t :=
  ⟨h.params, h.keepFillBits, h.packMode⟩

theorem SymbolOutcome.sameConfiguration {s t : State} {v : Bits} (h : SymbolOutcome s v t) : SameConfiguration s t :=
  have houtside := h.syncStep.outside
  ⟨houtside.params, houtside.keepFillBits, houtside.packMode⟩

theorem sameConfiguration_writeVec (s : State) (v : VecOperand) (w : Bits) : SameConfiguration s (writeVec s v w) := by
  cases v <;> exact ⟨rfl, rfl, rfl⟩

/-- What an operation returns is no part of the configuration. -/
theorem SameConfiguration.returns {s t : State} (h : SameConfiguration s t) (r : Result) : SameConfiguration s (t.returns r) :=
  ⟨h.params, h.keepFillBits, h.packMode⟩

theorem exec_sameConfiguration {i : Instr} {s t : State} (hi : i ≠ .reset) (h : exec i s = .next t) :
    SameConfiguration s t := by
  cases ho : outsideMac i with
  | false =>
    obtain ⟨u, r, hm, rfl⟩ := exec_macStep ho h
    exact hm.outside.sameConfiguration.returns r
  | true =>
    cases i
    case rxSymbol b =>
      obtain ⟨u, f, r, hu, rfl⟩ := execRxSymbol_next h
      obtain ⟨hparams, hkeep, hpack⟩ := hu.sameConfiguration
      exact ⟨hparams, hkeep, hpack⟩
    case syncMatch w =>
      obtain ⟨u, r, rfl | rfl, rfl⟩ := execSyncMatch_next h <;> exact ⟨rfl, rfl, rfl⟩
    case bvAppend u v =>
      obtain rfl := answer_next.mp h
      exact (sameConfiguration_writeVec s u _).returns _
    case fragStart a time =>
      obtain rfl := answer_next.mp h
      exact (fragStart_outside a time s).sameConfiguration.returns _
    case stop | ioError =>
      obtain rfl := answer_next.mp h
      exact ⟨rfl, rfl, rfl⟩
    case reset => exact absurd rfl hi
    all_goals cases ho

theorem exec_reset_params {s t : State} (h : exec .reset s = .next t) : t.params = s.params := by
  obtain rfl := answer_next.mp h
  rfl

/-- Settles O11: `RESET` keeps the parameters, every other operation the whole configuration. -/
theorem configurationFixed : Obligations.ConfigurationFixed := by
  intro i s t h
  by_cases hi : i = .reset
  · subst hi
    exact ⟨exec_reset_params h, fun hne => absurd rfl hne⟩
  · obtain ⟨hparams, hkeep, hpack⟩ := exec_sameConfiguration hi h
    exact ⟨hparams, fun _ => ⟨hkeep, hpack⟩⟩

end Sys2Proof.Machine
end

section
/-! Reset (family 70_reset_and_hazards): the state after it has the invariants, and `RESET` gives every element the value of the table of 70 R440. -/

namespace Sys2Proof.Machine

/-! ### The state after reset -/

/-- The defaults' counter is wide enough for 25500 (10 R21). -/
theorem Params.default_wf : Params.default.wf = true := by decide

/-- The machine starts with empty streams (70 R440). -/
theorem State.reset_emissions_nonempty : ∀ e ∈ State.reset.emissions, e.sdu ≠ [] :=
  fun _ he => absurd (mem_emissions.mp he) List.not_mem_nil

theorem State.reset_safe : Safe State.reset where
  time := rfl
  startTime := rfl
  synchronized := rfl
  lossReported := rfl
  counter := Nat.zero_le _
  dissocCount := Nat.zero_le _
  fragmentCount := Nat.zero_le _
  params := Params.default_wf
  emissions := State.reset_emissions_nonempty

theorem State.reset_bounded : Bounded State.reset where
  window := Nat.zero_le _
  fragBuffer := Nat.zero_le _
  stopped _ := rfl

/-- Settles O8: the table's values meet each invariant, and the port is empty. -/
theorem resetStateIsSafe : Obligations.ResetStateIsSafe := ⟨State.reset_safe, State.reset_bounded, rfl⟩

/-! ### `RESET` (47 R386, 70 R440) -/

theorem exec_reset (s : State) : exec .reset s = .next ((resetBlock s).returns .none) := rfl

/-- No usage marker has an encryption mode after reset, whatever the table held (10 R33). -/
theorem resetBlock_umEnc_getElem (s : State) (k : Nat) (hk : k < 64) : (resetBlock s).umEnc[k] = 0 :=
  Vector.getElem_replicate hk

/-- Settles O13: the state that `exec_reset` names, read off element by element; the table of encryption modes by its entries. -/
theorem resetGivesResetValues : Obligations.ResetGivesResetValues := by
  intro s
  refine ⟨_, exec_reset s, ?sync, ?time, ?cell, ?mac, ?addr, ?umEnc, ?frag, ?dissocCount, ?halted, ?keepFillBits, ?packMode, ?output⟩
  case umEnc => exact resetBlock_umEnc_getElem s
  case sync | time | cell | mac | addr | frag => rfl
  case dissocCount | halted => rfl
  case keepFillBits | packMode | output => rfl

end Sys2Proof.Machine
end
